-- ==== Sys2Proof/Word.lean ====
section
/-! DEFINITION. The 3-bit program word and output digit, and the names of the three registers. -/

namespace Sys2Proof

/-- One element of the program, 3 bits (R29, R55). It is an opcode or a raw operand, as its place in
the fetched pair says (R56, R68). A value outside `[0, 7]` cannot be written down (R71). -/
abbrev Word := BitVec 3

/-- One element of the output buffer, 3 bits (R27). -/
abbrev Digit := BitVec 3

/-- The three general registers (R20). They have no numbers, aliases or banks. -/
inductive Reg where
  | a
  | b
  | c
deriving DecidableEq, Repr

end Sys2Proof
end

