-- ==== Sys2Proof/Syntax.lean ====
section
/-! DEFINITION. The eight instructions as data, one constructor per row of the opcode table. -/

namespace Sys2Proof

/-- A combo operand, one constructor per kind of row of the addressing table (R62). -/
inductive Combo where
  /-- Raw 0 to 3: that literal. -/
  | lit (n : Fin 4)
  /-- Raw 4, 5, 6: the whole register A, B or C. -/
  | reg (r : Reg)
  /-- Raw 7: no value; resolving it raises InvalidOperand (R81). -/
  | invalid
deriving DecidableEq, Repr

/-- The instruction set (R2, R63). The operand is the raw word for a literal (R61) and for BXC's ignored
word (R83; kept, because listings that differ only in it are different programs, R69). -/
inductive Instr where
  | adv (operand : Combo)
  | bxl (literal : Word)
  | bst (operand : Combo)
  | jnz (target : Word)
  | bxc (ignored : Word)
  | out (operand : Combo)
  | bdv (operand : Combo)
  | cdv (operand : Combo)
deriving DecidableEq, Repr

/-- How an instruction reads its operand word (R60). -/
inductive OperandMode where
  | literal
  | combo
  | ignored
deriving DecidableEq, Repr

/-- The operand mode of each instruction (R60). -/
def Instr.mode : Instr → OperandMode
  | .adv _ => .combo
  | .bxl _ => .literal
  | .bst _ => .combo
  | .jnz _ => .literal
  | .bxc _ => .ignored
  | .out _ => .combo
  | .bdv _ => .combo
  | .cdv _ => .combo

end Sys2Proof
end

