-- ==== Sys2Proof/WellFormed.lean ====
section
/-! DEFINITION. Which instructions are legal (R64). An illegal one still decodes, and executing it raises
InvalidOperand: nothing in the machine is restricted to legal instructions. -/

namespace Sys2Proof

/-- A combo operand is legal unless it is raw 7 (R64). -/
def Combo.legal : Combo → Bool
  | .lit _ => true
  | .reg _ => true
  | .invalid => false

/-- The legal encodings (R64, R65): every literal and every ignored word is legal, 7 included. -/
def Instr.legal : Instr → Bool
  | .adv k => k.legal
  | .bxl _ => true
  | .bst k => k.legal
  | .jnz _ => true
  | .bxc _ => true
  | .out k => k.legal
  | .bdv k => k.legal
  | .cdv k => k.legal

end Sys2Proof
end

