-- ==== Sys2Proof/Decode.lean ====
section
/-! DEFINITION. The Instruction Decoder: a pair of words to an instruction (total, R66), a listing to
instructions, the opcode table's 6-bit view (R57); and the encoder, written from the same tables. -/

namespace Sys2Proof

/-- The addressing table for a combo operand, by raw word (R62). -/
def comboOfWord (raw : Word) : Combo :=
  match raw.toFin with
  | 0 => .lit 0
  | 1 => .lit 1
  | 2 => .lit 2
  | 3 => .lit 3
  | 4 => .reg .a
  | 5 => .reg .b
  | 6 => .reg .c
  | 7 => .invalid

/-- Decode the pair (word at IP, word at IP + 1) by the opcode map (R63). Every opcode has an arm, so it is
total: there is no reserved pair to reject (R58, R66). -/
def decode (op raw : Word) : Instr :=
  match op.toFin with
  | 0 => .adv (comboOfWord raw)
  | 1 => .bxl raw
  | 2 => .bst (comboOfWord raw)
  | 3 => .jnz raw
  | 4 => .bxc raw
  | 5 => .out (comboOfWord raw)
  | 6 => .bdv (comboOfWord raw)
  | 7 => .cdv (comboOfWord raw)

/-- The operand mode of each opcode value (R60). -/
def modeOfOpcode (op : Word) : OperandMode :=
  match op.toFin with
  | 0 => .combo
  | 1 => .literal
  | 2 => .combo
  | 3 => .literal
  | 4 => .ignored
  | 5 => .combo
  | 6 => .combo
  | 7 => .combo

/-- The raw word of a combo operand (R62). -/
def wordOfCombo : Combo → Word
  | .lit n => BitVec.ofNat 3 n.val
  | .reg .a => 4#3
  | .reg .b => 5#3
  | .reg .c => 6#3
  | .invalid => 7#3

/-- The opcode word of an instruction (R58, R63). -/
def opcodeOf : Instr → Word
  | .adv _ => 0#3
  | .bxl _ => 1#3
  | .bst _ => 2#3
  | .jnz _ => 3#3
  | .bxc _ => 4#3
  | .out _ => 5#3
  | .bdv _ => 6#3
  | .cdv _ => 7#3

/-- The raw operand word of an instruction (R59, R60). -/
def rawOf : Instr → Word
  | .adv k => wordOfCombo k
  | .bxl l => l
  | .bst k => wordOfCombo k
  | .jnz l => l
  | .bxc l => l
  | .out k => wordOfCombo k
  | .bdv k => wordOfCombo k
  | .cdv k => wordOfCombo k

/-- The pair of words of an instruction: opcode at the lower index, then the operand (R44, R56). -/
def encode (i : Instr) : Word × Word := (opcodeOf i, rawOf i)

/-- Why a sequence of words or numbers does not begin with an instruction. -/
inductive DecodeRejection where
  /-- There is no word left. -/
  | noWords
  /-- There is an opcode word and no operand word: an incomplete pair (R79). -/
  | operandMissing (op : Word)
  /-- A number outside `[0, 7]` is no word (R55, R71). -/
  | notAWord (value : Nat)
deriving DecidableEq, Repr

/-- Read one instruction from the front of a list of words (R56, R67). -/
def decodeFront : List Word → Except DecodeRejection (Instr × List Word)
  | [] => .error .noWords
  | [op] => .error (.operandMissing op)
  | op :: raw :: rest => .ok (decode op raw, rest)

/-- A whole listing as instructions from index 0, by pairs, with the words of an incomplete last pair left
over (R56, R68, R79). -/
def decodeListing : List Word → List Instr × List Word
  | [] => ([], [])
  | [op] => ([], [op])
  | op :: raw :: rest => (decode op raw :: (decodeListing rest).1, (decodeListing rest).2)

/-- The listing of a list of instructions: their pairs in order (R69). -/
def encodeListing : List Instr → List Word
  | [] => []
  | i :: is => opcodeOf i :: rawOf i :: encodeListing is

/-- A number as a program word, if it is one (R55, R71). -/
def wordOfNat (v : Nat) : Except DecodeRejection Word :=
  if v < 8 then .ok (BitVec.ofNat 3 v) else .error (.notAWord v)

/-- The 6-bit view of a pair: opcode in bits 5..3, operand in bits 2..0 (R57). -/
def instr6 (op raw : Word) : Nat := op.toNat * 8 + raw.toNat

/-- The pair behind a number in the table's numbering, if `nbits` bits hold one. The table numbers the
operand word, which is the SECOND word, as bits 2..0 (R57, log entry 3). A pair has 6 bits, so a number with
a bit set above bit 5 is no pair. -/
def tableWords (nbits w : Nat) : Option (Word × Word) :=
  if w < 2 ^ nbits ∧ w < 64 then some (BitVec.ofNat 3 (w / 8), BitVec.ofNat 3 (w % 8)) else none

/-- The instruction the decoder reads from an instruction whose bits are `w`, numbered as the opcode
table numbers them. -/
def decodeTableWord (nbits w : Nat) : Option Instr :=
  match tableWords nbits w with
  | some p => some (decode p.1 p.2)
  | none => none

end Sys2Proof
end

