-- ==== Sys2Proof/Config.lean ====
section
/-! DEFINITION. The parameters of R5 that an implementation fixes, and the launch inputs that `State.reset` names. -/

namespace Sys2Proof

/-- The parameter `REG_W` (R5, R21): registers hold any natural, or `w` bits. -/
inductive RegWidth where
  | unbounded
  | bits (w : Nat)
deriving DecidableEq, Repr

/-- The widths the spec admits: unbounded, or a finite width of at least 3 bits (R5, R21). -/
def RegWidth.admitted : RegWidth → Bool
  | .unbounded => true
  | .bits w => decide (3 ≤ w)

/-- Whether a register of this width can hold the value `v` (R21). -/
def RegWidth.holds : RegWidth → Nat → Bool
  | .unbounded, _ => true
  | .bits w, v => decide (v < 2 ^ w)

/-- The value of `REG_W` the spec fixes: unbounded (R5, D1). The machine needs no other case: in every
admitted finite width no instruction can overflow a register that fits before it (R23). -/
def Config.regWidth : RegWidth := .unbounded

/-- Where execution starts: index 0, the reset vector (R48, R137). -/
def Config.resetVector : Nat := 0

/-- The launch value `State.reset` gives each of A, B and C. DESIGN CHOICE, log entry 1: `A_INIT`, `B_INIT`
and `C_INIT` are inputs with no default (R136), and a plain `State.reset` has no inputs. Unsafe. -/
def Config.defaultInit : Nat := 0

end Sys2Proof
end

