-- ==== Sys2Proof/Machine/State.lean ====
section
/-! DEFINITION. The machine's whole state (R32), its state after RESET (R137), and why a step can stop. -/

namespace Sys2Proof.Machine

/-- The kinds of error the engine can end in: InvalidOperand alone (R30, R120). -/
inductive ErrorKind where
  | invalidOperand
deriving DecidableEq, Repr

/-- The run status, three-valued (R30). There is no constructor for status code 3 (U8). -/
inductive Status where
  | running
  | halted
  | error (kind : ErrorKind)
deriving DecidableEq, Repr

/-- The machine state (R32), with the program store beside it. The registers and the IP are naturals that never
wrap (R9, R21, R24, R25); the buffer's first digit is the first emitted (R28, R44). -/
structure State where
  /-- Register A (R20, R21). -/
  a : Nat
  /-- Register B (R20, R21). -/
  b : Nat
  /-- Register C (R20, R21). -/
  c : Nat
  /-- The instruction pointer: the index of the opcode the next step fetches (R24). -/
  ip : Nat
  /-- The output buffer, in emission order (R27). -/
  out : List Digit
  /-- The run status (R30). -/
  status : Status
  /-- The program store: the word at index `i` is the list's `i`-th, and `N` is the list's length
  (R29, R40, R48; log entry 2). -/
  prog : List Word
deriving DecidableEq, Repr

/-- Why a step answers a fault. These are the run's two ends, from which no step is defined (R31, R84); the
engine's exception InvalidOperand is no `Fault`: raising it is a next state (R121). Log entry 5. -/
inductive Fault where
  /-- `step` raises it in a state whose status is HALTED: the run has ended normally, which is no error
  (R77). Safe: no next state is claimed. -/
  | runHalted
  /-- `step` raises it in a state whose status is ERROR: the run has failed and its result is this error
  (R87, R126). Safe: no next state is claimed. -/
  | runFailed (kind : ErrorKind)
deriving DecidableEq, Repr

/-- Why a step answers a refusal. -/
inductive Refusal where
  /-- The instruction is not modelled. Nothing raises it: all eight are. Safe. -/
  | notModelled (mnemonic : String)
deriving DecidableEq, Repr

/-- The command RESET with its inputs: a new state, nothing of an earlier one in it (R135, R136, R137). `prog` is
the program store the host has loaded (R139). -/
def State.resetWith (prog : List Word) (aInit bInit cInit : Nat) : State :=
  { a := aInit, b := bInit, c := cInit, ip := Config.resetVector, out := [], status := .running, prog := prog }

/-- The machine right after reset with nothing loaded. The IP, the buffer and the status are the spec's (R36, R137);
the program and the three registers are launch inputs, which log entry 1 names. -/
def State.reset : State :=
  State.resetWith [] Config.defaultInit Config.defaultInit Config.defaultInit

end Sys2Proof.Machine
end

