-- ==== Sys2Proof/Machine/Ops.lean ====
section
/-! DEFINITION. The named operations over the registers, the IP, the buffer, the status and the program store: the
primitives of R12. -/

namespace Sys2Proof.Machine

/-- `x[r]`: read a register, the whole value (R12). -/
def readReg (s : State) : Reg → Nat
  | .a => s.a
  | .b => s.b
  | .c => s.c

/-- `x[r] <- v`: write a register (R12). Nothing is truncated: arithmetic never overflows (R9, R23). -/
def writeReg (r : Reg) (v : Nat) (s : State) : State :=
  match r with
  | .a => { s with a := v }
  | .b => { s with b := v }
  | .c => { s with c := v }

/-- `IP <- target` (R12). -/
def setIp (target : Nat) (s : State) : State := { s with ip := target }

/-- The advance past the pair just executed: `IP <- IP + 2` (R26, R85). -/
def advance (s : State) : State := setIp (s.ip + 2) s

/-- `OutAppend(d)`: one digit at the end of the buffer (R12, R27). -/
def outAppend (d : Digit) (s : State) : State := { s with out := s.out ++ [d] }

/-- `halt`: the status becomes HALTED and nothing else changes (R12, R76). -/
def halt (s : State) : State := { s with status := .halted }

/-- Taking an exception, the one there is: `raise InvalidOperand` sets the status, and A, B, C, IP and the buffer keep
their values from before the step (R12, R121). There is no trap entry (R125) and no return (R126). -/
def raiseError (kind : ErrorKind) (s : State) : State := { s with status := .error kind }

/-- `N`, the number of words in the program store (R5, R40). -/
def progLen (s : State) : Nat := s.prog.length

/-- `MemRead(i, 1)`: the program word at index `i`, none where there is none (R12, R40, R48). -/
def memRead (s : State) (i : Nat) : Option Word := s.prog[i]?

/-- The halt check: IP does not address a whole pair (R76). -/
def haltCheck (s : State) : Bool := decide (progLen s ≤ s.ip + 1)

/-- The fetch, part (a) of the step: no word where the halt check fires, else the words at IP and IP + 1
(R42, R46, R84). -/
def fetchPair (s : State) : Option (Word × Word) :=
  if haltCheck s then none
  else
    match memRead s s.ip, memRead s (s.ip + 1) with
    | some op, some raw => some (op, raw)
    | _, _ => none

/-- A program with the word at index `i` replaced by `w`; a program too short for it is lengthened with words 0. The
host's load uses it, and no instruction does (R43). -/
def placeWord : List Word → Nat → Word → List Word
  | [], 0, w => [w]
  | _ :: ws, 0, w => w :: ws
  | [], i + 1, w => 0#3 :: placeWord [] i w
  | v :: ws, i + 1, w => v :: placeWord ws i w

end Sys2Proof.Machine
end

