-- ==== Sys2Proof/Machine/Operands.lean ====
section
/-! DEFINITION. Operand resolution (R80 to R83) and the arithmetic the instructions share. -/

namespace Sys2Proof.Machine

/-- Literal resolution: the raw word as a natural, zeros above bit 2 (R61, R80). -/
def literalValue (raw : Word) : Nat := raw.toNat

/-- Combo resolution: the literal, or the whole register, from the state before the instruction writes anything; no value
for raw 7 (R62, R81, R82). -/
def comboValue (k : Combo) (s : State) : Option Nat :=
  match k with
  | .lit n => some n.val
  | .reg r => some (readReg s r)
  | .invalid => none

/-- Resolve a combo operand, then go on with its value; raw 7 raises InvalidOperand before any effect (R81, R84, R121). -/
def withCombo (k : Combo) (s : State) (effect : Nat → State) : Host.Outcome State Fault Refusal :=
  match comboValue k s with
  | some v => .next (effect v)
  | none => .next (raiseError .invalidOperand s)

/-- `dv(k) = floor(x[A] / 2^k)`, for a shift count of any size (R90). -/
def dv (s : State) (k : Nat) : Nat := s.a >>> k

/-- `v mod 8`, that is `v[2:0]` (R10, R11). -/
def mod8 (v : Nat) : Nat := v % 8

/-- A value's low three bits as an output digit (R115). -/
def digitOf (v : Nat) : Digit := BitVec.ofNat 3 (mod8 v)

/-- Bitwise exclusive-or of two naturals, on their whole binary expansions (R11, R103). -/
def xorNat (x y : Nat) : Nat := x ^^^ y

end Sys2Proof.Machine
end

