-- ==== Sys2Proof/Machine/Bitwise.lean ====
section
/-! DEFINITION. BXL, BST, BXC: the operations on B (R100 to R103). -/

namespace Sys2Proof.Machine

/-- BXL: B XOR the literal (R100). -/
def execBxl (l : Word) (s : State) : Host.Outcome State Fault Refusal :=
  .next (advance (writeReg .b (xorNat s.b (literalValue l)) s))

/-- BST: the combo value modulo 8 (R101). -/
def execBst (k : Combo) (s : State) : Host.Outcome State Fault Refusal :=
  withCombo k s fun v => advance (writeReg .b (mod8 v) s)

/-- BXC: B XOR C. The raw word is ignored, whatever it is (R83, R102). -/
def execBxc (_ignored : Word) (s : State) : Host.Outcome State Fault Refusal :=
  .next (advance (writeReg .b (xorNat s.b s.c) s))

end Sys2Proof.Machine
end

