-- ==== Sys2Proof/Machine/Flags.lean ====
section
/-! DEFINITION. The engine has no flags, condition codes or predicates (R33). The one condition any instruction tests is here. -/

namespace Sys2Proof.Machine

/-- JNZ's condition: register A itself, over its whole width, is not zero (R33, R110). -/
def aNonzero (s : State) : Bool := s.a != 0

end Sys2Proof.Machine
end

