-- ==== Sys2Proof/Machine/Control.lean ====
section
/-! DEFINITION. JNZ, the only control transfer (R110 to R112). -/

namespace Sys2Proof.Machine

/-- JNZ: to the absolute target with no further advance if A is not zero, else past the pair (R110). No target is checked,
odd or out of range (R111). -/
def execJnz (target : Word) (s : State) : Host.Outcome State Fault Refusal :=
  if aNonzero s then .next (setIp (literalValue target) s) else .next (advance s)

end Sys2Proof.Machine
end

