-- ==== Sys2Proof/Machine/Division.lean ====
section
/-! DEFINITION. ADV, BDV, CDV: A divided by a power of two (R90 to R94). -/

namespace Sys2Proof.Machine

/-- The shared division: resolve the shift count, write the quotient to the destination, advance (R90). The dividend is
always A, read before the write (R82, R143). -/
def divideInto (dest : Reg) (k : Combo) (s : State) : Host.Outcome State Fault Refusal :=
  withCombo k s fun v => advance (writeReg dest (dv s v) s)

/-- ADV (R91). -/
def execAdv (k : Combo) (s : State) : Host.Outcome State Fault Refusal := divideInto .a k s

/-- BDV (R92). -/
def execBdv (k : Combo) (s : State) : Host.Outcome State Fault Refusal := divideInto .b k s

/-- CDV (R93). -/
def execCdv (k : Combo) (s : State) : Host.Outcome State Fault Refusal := divideInto .c k s

end Sys2Proof.Machine
end

