-- ==== Sys2Proof/Machine/Output.lean ====
section
/-! DEFINITION. OUT, the only writer of the output buffer (R115, R116). -/

namespace Sys2Proof.Machine

/-- OUT: append the combo value modulo 8 (R115). -/
def execOut (k : Combo) (s : State) : Host.Outcome State Fault Refusal :=
  withCombo k s fun v => advance (outAppend (digitOf v) s)

end Sys2Proof.Machine
end

