-- ==== Sys2Proof/Machine/Dispatch.lean ====
section
/-! DEFINITION. Dispatch: one arm per instruction, total over the opcodes (R84, R86). `exec` is parts (b) to (d) of the
step and does not look at the status; `step` does (log entry 6). -/

namespace Sys2Proof.Machine

def exec (i : Instr) (s : State) : Host.Outcome State Fault Refusal :=
  match i with
  | .adv k => Sys2Proof.Machine.execAdv k s
  | .bxl l => Sys2Proof.Machine.execBxl l s
  | .bst k => Sys2Proof.Machine.execBst k s
  | .jnz l => Sys2Proof.Machine.execJnz l s
  | .bxc l => Sys2Proof.Machine.execBxc l s
  | .out k => Sys2Proof.Machine.execOut k s
  | .bdv k => Sys2Proof.Machine.execBdv k s
  | .cdv k => Sys2Proof.Machine.execCdv k s

end Sys2Proof.Machine
end

