-- ==== Sys2Proof/Machine/Step.lean ====
section
/-! DEFINITION. One step of the engine (R84), and the placing of one instruction for the host. -/

namespace Sys2Proof.Machine

/-- One atomic step (R84, R89): the halt check and the fetch, then decode and execute, in the order of R129. No step is
defined once the run is over (R31). -/
def step (s : State) : Host.Outcome State Fault Refusal :=
  match s.status with
  | .halted => .fault .runHalted
  | .error kind => .fault (.runFailed kind)
  | .running =>
    match fetchPair s with
    | none => .next (halt s)
    | some pair => exec (decode pair.1 pair.2) s

/-- `s` with the instruction `w` of the opcode table loaded at IP and IP + 1, and RUNNING, so that the next step runs it. It
stands for the host's load (R139, log entry 4): the engine itself never writes its program (R43). A number that is no pair
changes nothing. -/
def State.withFetchWord (s : State) (nbits w : Nat) : State :=
  match tableWords nbits w with
  | some pair =>
    { s with status := .running, prog := placeWord (placeWord s.prog s.ip pair.1) (s.ip + 1) pair.2 }
  | none => s

end Sys2Proof.Machine
end

