-- ==== Sys2Proof/Machine/Asm.lean ====
section
/-! DEFINITION. The assembler syntax of R69, R70 (D14), token by token: a mnemonic and the raw operand. It is no part of the
machine; it only names instructions. -/

namespace Sys2Proof.Machine

/-- The lower-case mnemonic (R69). -/
def mnemonic : Instr → String
  | .adv _ => "adv"
  | .bxl _ => "bxl"
  | .bst _ => "bst"
  | .jnz _ => "jnz"
  | .bxc _ => "bxc"
  | .out _ => "out"
  | .bdv _ => "bdv"
  | .cdv _ => "cdv"

/-- An instruction as text: the mnemonic, a space, the raw operand in decimal (R69). -/
def toAsm (i : Instr) : String := mnemonic i ++ " " ++ toString (rawOf i).toNat

/-- A mnemonic and a raw operand as an instruction; none for a word that is no mnemonic or a number that is no word. There are no
pseudo-instructions, directives or labels (R70). -/
def assemble (name : String) (raw : Nat) : Option Instr :=
  if raw < 8 then
    if name = "adv" then some (decode 0#3 (BitVec.ofNat 3 raw))
    else if name = "bxl" then some (decode 1#3 (BitVec.ofNat 3 raw))
    else if name = "bst" then some (decode 2#3 (BitVec.ofNat 3 raw))
    else if name = "jnz" then some (decode 3#3 (BitVec.ofNat 3 raw))
    else if name = "bxc" then some (decode 4#3 (BitVec.ofNat 3 raw))
    else if name = "out" then some (decode 5#3 (BitVec.ofNat 3 raw))
    else if name = "bdv" then some (decode 6#3 (BitVec.ofNat 3 raw))
    else if name = "cdv" then some (decode 7#3 (BitVec.ofNat 3 raw))
    else none
  else none

end Sys2Proof.Machine
end

