-- ==== Sys2Proof/Machine/Access.lean ====
section
/-! DEFINITION. Register access by instruction, the table of R22, as data beside the meanings. -/

namespace Sys2Proof.Machine

/-- "R (combo)" of R22: a combo operand reads the register that its raw value selects. -/
def comboReads (k : Combo) (r : Reg) : Bool :=
  match k with
  | .lit _ => false
  | .reg q => q == r
  | .invalid => false

/-- The "R" entries of R22. -/
def reads (i : Instr) (r : Reg) : Bool :=
  match i with
  | .adv k => r == .a || comboReads k r
  | .bxl _ => r == .b
  | .bst k => comboReads k r
  | .jnz _ => r == .a
  | .bxc _ => r == .b || r == .c
  | .out k => comboReads k r
  | .bdv k => r == .a || comboReads k r
  | .cdv k => r == .a || comboReads k r

/-- The "W" entries of R22: the one register an instruction writes, if any. -/
def writes (i : Instr) : Option Reg :=
  match i with
  | .adv _ => some .a
  | .bxl _ => some .b
  | .bst _ => some .b
  | .jnz _ => none
  | .bxc _ => some .b
  | .out _ => none
  | .bdv _ => some .b
  | .cdv _ => some .c

end Sys2Proof.Machine
end

