-- ==== Sys2Proof/Machine/Launch.lean ====
section
/-! DEFINITION. What the host does before a run (R139): check and load the program, supply the registers, assert RESET. -/

namespace Sys2Proof.Machine

/-- Why the loader rejects a launch (R139, U4). A negative or non-integer value has no form here (D2, U5). -/
inductive LaunchRejection where
  /-- A register width the spec does not admit: finite and below 3 (R5). DESIGN CHOICE, log entry 14: the spec gives such
  a launch no behaviour, and the model rejects it. Safe. -/
  | widthNotAdmitted (width : RegWidth)
  /-- A program element outside `[0, 7]` (R71). -/
  | notAWord (value : Nat)
  /-- An odd number of words (D7). -/
  | oddLength (words : Nat)
  /-- An initial value that does not fit the register width (R136). -/
  | registerTooWide (r : Reg) (value : Nat)
deriving DecidableEq, Repr

/-- The numbers of a listing as words, rejecting the first that is none (R71, R139). -/
def loadWords : List Nat → Except LaunchRejection (List Word)
  | [] => .ok []
  | v :: vs =>
    match wordOfNat v, loadWords vs with
    | .error _, _ => .error (.notAWord v)
    | .ok _, .error e => .error e
    | .ok w, .ok ws => .ok (w :: ws)

/-- The loader: every number a word, and an even number of them (R139 step 1, D7, U4). -/
def loadProgram (listing : List Nat) : Except LaunchRejection (List Word) :=
  match loadWords listing with
  | .error e => .error e
  | .ok ws => if ws.length % 2 = 0 then .ok ws else .error (.oddLength ws.length)

/-- Boot, the four steps of R139 in order, for registers of width `width`. There is an engine to boot only at a width R5
admits. At a finite width below 3 the spec says nothing of a launch, and boot rejects it by name before anything else, whether the
values would fit or not: DESIGN CHOICE, log entry 14, safe. The order of the checks is the model's too (log entry 9). -/
def boot (width : RegWidth) (listing : List Nat) (aInit bInit cInit : Nat) : Except LaunchRejection State :=
  if width.admitted = false then .error (.widthNotAdmitted width)
  else
    match loadProgram listing with
    | .error e => .error e
    | .ok ws =>
      if width.holds aInit = false then .error (.registerTooWide .a aInit)
      else if width.holds bInit = false then .error (.registerTooWide .b bInit)
      else if width.holds cInit = false then .error (.registerTooWide .c cInit)
      else .ok (State.resetWith ws aInit bInit cInit)

/-- Boot of the engine as the spec fixes it: unbounded registers (R5, D1). -/
def launch (listing : List Nat) (aInit bInit cInit : Nat) : Except LaunchRejection State :=
  boot Config.regWidth listing aInit bInit cInit

end Sys2Proof.Machine
end

