-- ==== Sys2Proof/Machine/Ports.lean ====
section
/-! DEFINITION. What the host sees of the engine: the outputs STATUS and OUT (R7, R30, R116), and the result of a run (R87). -/

namespace Sys2Proof.Machine

/-- The status as the 2 bits of the status port (R30, D9). -/
def statusCode : Status → BitVec 2
  | .running => 0#2
  | .halted => 1#2
  | .error .invalidOperand => 2#2

/-- The status behind a 2-bit code; 3 is unused and has no meaning (R30, U8). -/
def statusOfCode (code : BitVec 2) : Option Status :=
  match code.toFin with
  | 0 => some .running
  | 1 => some .halted
  | 2 => some (.error .invalidOperand)
  | 3 => none

/-- The output STATUS (R7). -/
def statusPort (s : State) : BitVec 2 := statusCode s.status

/-- The digit an instruction appends: OUT's combo value modulo 8, if it has one (R115); none for any other instruction. -/
def digitAppended (i : Instr) (s : State) : Option Digit :=
  match i with
  | .out k => (comboValue k s).map digitOf
  | .adv _ => none
  | .bxl _ => none
  | .bst _ => none
  | .jnz _ => none
  | .bxc _ => none
  | .bdv _ => none
  | .cdv _ => none

/-- The digit the output port emits at the step from `s`: one at a step that executes OUT, none at any other (R116, D12). -/
def emitted (s : State) : Option Digit :=
  match s.status with
  | .running =>
    match fetchPair s with
    | some pair => digitAppended (decode pair.1 pair.2) s
    | none => none
  | .halted => none
  | .error _ => none

/-- The result of a run that has ended (R87). -/
inductive RunResult where
  /-- It ended HALTED: its output buffer. -/
  | output (digits : List Digit)
  /-- It ended ERROR: the error. The buffer is then no result (R127). -/
  | failed (kind : ErrorKind)
deriving DecidableEq, Repr

/-- The result the host reads off a state, none while the run goes on (R7, R87, R140). -/
def result (s : State) : Option RunResult :=
  match s.status with
  | .running => none
  | .halted => some (.output s.out)
  | .error kind => some (.failed kind)

/-- The faulting pair, which a state in ERROR still addresses (R123). -/
def faultingPair (s : State) : Option (Word × Word) :=
  match s.status with
  | .error _ => fetchPair s
  | _ => none

end Sys2Proof.Machine
end

