-- ==== Sys2Proof/Machine/Run.lean ====
section
/-! DEFINITION. The run loop (R75), as an executor under fuel (R88, D13). -/

namespace Sys2Proof.Machine

/-- The executor's verdict on a run. -/
inductive Verdict where
  /-- The status left RUNNING, in this state (R75). -/
  | ended (s : State)
  /-- The fuel ran out and the run still goes on: the executor's verdict, never a machine state (R88). -/
  | outOfFuel (s : State)
  /-- A step answered no next state while RUNNING. It never happens (R86). -/
  | noStep (s : State)
deriving DecidableEq, Repr

/-- The state a verdict was reached in. -/
def Verdict.state : Verdict → State
  | .ended s => s
  | .outOfFuel s => s
  | .noStep s => s

/-- Apply the step for as long as the status is RUNNING, at most `fuel` times (R75, R88). -/
def runFuel : Nat → State → Verdict
  | 0, s => if s.status = .running then .outOfFuel s else .ended s
  | fuel + 1, s =>
    if s.status = .running then
      match step s with
      | .next t => runFuel fuel t
      | .fault _ => .noStep s
      | .refused _ => .noStep s
    else .ended s

end Sys2Proof.Machine
end

