-- ==== Sys2Proof/Safety.lean ====
section
/-! DEFINITION. The terms the claims use: the invariants of R23 and R25, agreement of two states, and how a run ends. -/

namespace Sys2Proof.Machine

/-- The IP lies in `[0, max(N, 7)]` (R25). -/
abbrev IpInRange (s : State) : Prop := s.ip ≤ max (progLen s) 7

/-- Every register holds a value of the given width (R21, R23). -/
abbrev RegsFit (width : RegWidth) (s : State) : Prop := ∀ r : Reg, width.holds (readReg s r) = true

/-- The five combo-mode opcodes with raw operand 7 (R64). -/
abbrev IllegalPair (op raw : Word) : Prop := raw = 7#3 ∧ (op = 0#3 ∨ op = 2#3 ∨ op = 5#3 ∨ op = 6#3 ∨ op = 7#3)

/-- The run from `s` ends HALTED within `fuel` steps: a run with a result (R87). -/
abbrev EndsHalted (fuel : Nat) (s : State) : Prop := ∃ t, runFuel fuel s = .ended t ∧ t.status = .halted

/-- The run from `s` ends ERROR(InvalidOperand) within `fuel` steps (R87, R121). -/
abbrev EndsFailed (fuel : Nat) (s : State) : Prop :=
  ∃ t, runFuel fuel s = .ended t ∧ t.status = .error .invalidOperand

/-- The run from `s` never ends (R88). -/
abbrev NeverEnds (s : State) : Prop := ∀ fuel, ∃ t, runFuel fuel s = .outOfFuel t

end Sys2Proof.Machine
end

