-- ==== Sys2Proof/Certificates/Slice0/Obligations.lean ====
section
/-! DEFINITION. The statements for the provers, and the two reference functions they are compared with, transcribed from R81
and R84 over plain numbers. -/

open Sys2Proof Sys2Proof.Machine

/-- R81's case table, on the raw operand as a number. -/
def Sys2Proof.Claims.comboR81 (s : State) (raw : Nat) : Option Nat :=
  if raw ≤ 3 then some raw
  else if raw = 4 then some s.a
  else if raw = 5 then some s.b
  else if raw = 6 then some s.c
  else none

/-- R84's pseudocode for a state whose status is RUNNING, arm by arm, on the two words as numbers. -/
def Sys2Proof.Claims.stepR84 (s : State) : State :=
  if s.prog.length ≤ s.ip + 1 then { s with status := .halted }
  else
    let op := (s.prog.getD s.ip 0#3).toNat
    let raw := (s.prog.getD (s.ip + 1) 0#3).toNat
    let raised : State := { s with status := .error .invalidOperand }
    let k := Sys2Proof.Claims.comboR81 s raw
    if op = 0 then k.elim raised fun v => { s with a := s.a / 2 ^ v, ip := s.ip + 2 }
    else if op = 1 then { s with b := s.b ^^^ raw, ip := s.ip + 2 }
    else if op = 2 then k.elim raised fun v => { s with b := v % 8, ip := s.ip + 2 }
    else if op = 3 then if s.a ≠ 0 then { s with ip := raw } else { s with ip := s.ip + 2 }
    else if op = 4 then { s with b := s.b ^^^ s.c, ip := s.ip + 2 }
    else if op = 5 then k.elim raised fun v => { s with out := s.out ++ [BitVec.ofNat 3 (v % 8)], ip := s.ip + 2 }
    else if op = 6 then k.elim raised fun v => { s with b := s.a / 2 ^ v, ip := s.ip + 2 }
    else k.elim raised fun v => { s with c := s.a / 2 ^ v, ip := s.ip + 2 }

/-! ## Encoding -/

/-- R60: each opcode decodes to its instruction, in its operand mode, for every raw operand word. -/
def Obligations.OpcodeMapAndOperandModes : Prop :=
  ∀ raw : Word,
    (decode 0#3 raw = .adv (comboOfWord raw) ∧ (decode 0#3 raw).mode = .combo) ∧
    (decode 1#3 raw = .bxl raw ∧ (decode 1#3 raw).mode = .literal) ∧
    (decode 2#3 raw = .bst (comboOfWord raw) ∧ (decode 2#3 raw).mode = .combo) ∧
    (decode 3#3 raw = .jnz raw ∧ (decode 3#3 raw).mode = .literal) ∧
    (decode 4#3 raw = .bxc raw ∧ (decode 4#3 raw).mode = .ignored) ∧
    (decode 5#3 raw = .out (comboOfWord raw) ∧ (decode 5#3 raw).mode = .combo) ∧
    (decode 6#3 raw = .bdv (comboOfWord raw) ∧ (decode 6#3 raw).mode = .combo) ∧
    (decode 7#3 raw = .cdv (comboOfWord raw) ∧ (decode 7#3 raw).mode = .combo)

/-- Pairs the spec writes out in binary in its test vectors (95, E1, P3, P4, P7; R65 for BXC 7). -/
def Obligations.SpecPairsDecodeAsWritten : Prop :=
  decodeTableWord 8 0b000001 = some (.adv (.lit 1)) ∧
  decodeTableWord 8 0b101100 = some (.out (.reg .a)) ∧
  decodeTableWord 8 0b011000 = some (.jnz 0#3) ∧
  decodeTableWord 8 0b010100 = some (.bst (.reg .a)) ∧
  decodeTableWord 8 0b001011 = some (.bxl 3#3) ∧
  decodeTableWord 8 0b111101 = some (.cdv (.reg .b)) ∧
  decodeTableWord 8 0b110110 = some (.bdv (.reg .c)) ∧
  decodeTableWord 8 0b100111 = some (.bxc 7#3) ∧
  decodeTableWord 8 0b000111 = some (.adv .invalid)

/-- Each pair of words is the encoding of the one instruction it decodes to: no bit of it is dropped (R58, R59, R66). -/
def Obligations.EncodeUndoesDecode : Prop :=
  ∀ op raw : Word, encode (decode op raw) = (op, raw)

/-- Every instruction, with every operand, is decoded from its words, and from its 6-bit view in the table's numbering
(R57: opcode times 8 plus operand). -/
def Obligations.DecodeUndoesEncode : Prop :=
  ∀ i : Instr,
    decode (encode i).1 (encode i).2 = i ∧
    decodeTableWord 8 ((opcodeOf i).toNat * 8 + (rawOf i).toNat) = some i

/-- A whole listing and its instructions: the listing of any instructions decodes to them with nothing left over, two words
each, and any listing is given back by the instructions read from it and the words of its incomplete last pair (R56, R67, R79). -/
def Obligations.ListingRoundTrip : Prop :=
  (∀ is : List Instr,
    decodeListing (encodeListing is) = (is, []) ∧ (encodeListing is).length = 2 * is.length) ∧
  (∀ ws : List Word,
    encodeListing (decodeListing ws).1 ++ (decodeListing ws).2 = ws ∧ (decodeListing ws).2.length = ws.length % 2)

/-- From an even IP the fetch reads the pairs `(0,1), (2,3), …` of the listing (R68): in a state whose program is the listing
of `is` and whose IP is twice `j`, a RUNNING step is the `j`-th instruction's own effect. -/
def Obligations.EvenIpRunsTheListedInstruction : Prop :=
  ∀ (is : List Instr) (j : Nat) (i : Instr) (s : State),
    is[j]? = some i → s.prog = encodeListing is → s.ip = 2 * j → s.status = .running → step s = exec i s

/-- R64: exactly the five combo-mode opcodes with raw 7 are illegal; each still decodes to its operation; executing one only
sets the status; and a step ends in the error only if the pair it fetched is one of them. -/
def Obligations.IllegalPairsFaultOnlyWhenExecuted : Prop :=
  (∀ op raw : Word, (decode op raw).legal = false ↔ IllegalPair op raw) ∧
  (decode 0#3 7#3 = .adv .invalid ∧ decode 2#3 7#3 = .bst .invalid ∧ decode 5#3 7#3 = .out .invalid ∧
    decode 6#3 7#3 = .bdv .invalid ∧ decode 7#3 7#3 = .cdv .invalid) ∧
  (∀ (op raw : Word) (s : State), IllegalPair op raw →
    exec (decode op raw) s = .next { s with status := .error .invalidOperand }) ∧
  (∀ s t : State, step s = .next t → t.status = .error .invalidOperand →
    ∃ op raw, memRead s s.ip = some op ∧ memRead s (s.ip + 1) = some raw ∧ IllegalPair op raw)

/-- R83, R122: InvalidOperand is raised by the five combo-mode opcodes with raw 7 and by nothing else, whatever the registers
hold; BXL, JNZ and BXC never raise it, and BXC's effect does not depend on its raw word. -/
def Obligations.OnlyComboSevenRaises : Prop :=
  (∀ (i : Instr) (s : State), s.status = .running →
    ((∃ t, exec i s = .next t ∧ t.status = .error .invalidOperand) ↔ IllegalPair (opcodeOf i) (rawOf i))) ∧
  (∀ (raw : Word) (s : State), s.status = .running →
    (∃ t, exec (.bxl raw) s = .next t ∧ t.status = .running) ∧
    (∃ t, exec (.jnz raw) s = .next t ∧ t.status = .running) ∧
    (∃ t, exec (.bxc raw) s = .next t ∧ t.status = .running)) ∧
  (∀ (raw raw' : Word) (s : State), exec (.bxc raw) s = exec (.bxc raw') s)

/-! ## Operands -/

/-- R62, R81: the combo table, whole registers unreduced, and raw 7 raising InvalidOperand whatever the effect was to be. -/
def Obligations.ComboOperandTable : Prop :=
  ∀ s : State,
    comboValue (comboOfWord 0#3) s = some 0 ∧
    comboValue (comboOfWord 1#3) s = some 1 ∧
    comboValue (comboOfWord 2#3) s = some 2 ∧
    comboValue (comboOfWord 3#3) s = some 3 ∧
    comboValue (comboOfWord 4#3) s = some s.a ∧
    comboValue (comboOfWord 5#3) s = some s.b ∧
    comboValue (comboOfWord 6#3) s = some s.c ∧
    comboValue (comboOfWord 7#3) s = none ∧
    ∀ effect : Nat → State, withCombo (comboOfWord 7#3) s effect = .next { s with status := .error .invalidOperand }

/-- R61, R80: the literal operand of BXL and of JNZ is the raw word as a natural in `[0, 7]`, every higher bit 0, and neither
faults. -/
def Obligations.LiteralOperandIsTheRawWord : Prop :=
  ∀ (raw : Word) (s : State),
    raw.toNat ≤ 7 ∧
    (∀ j, 3 ≤ j → (literalValue raw).testBit j = false) ∧
    exec (.bxl raw) s = .next { s with b := s.b ^^^ raw.toNat, ip := s.ip + 2 } ∧
    exec (.jnz raw) s = .next { s with ip := if s.a ≠ 0 then raw.toNat else s.ip + 2 }

/-! ## The instructions -/

/-- R91: ADV, for every raw operand word. -/
def Obligations.AdvWritesQuotientToA : Prop :=
  ∀ (raw : Word) (s : State),
    decode 0#3 raw = .adv (comboOfWord raw) ∧
    (raw = 7#3 → exec (.adv (comboOfWord raw)) s = .next { s with status := .error .invalidOperand }) ∧
    (raw ≠ 7#3 → ∃ k, comboValue (comboOfWord raw) s = some k ∧
      exec (.adv (comboOfWord raw)) s = .next { s with a := s.a / 2 ^ k, ip := s.ip + 2 }) ∧
    (raw = 4#3 → exec (.adv (comboOfWord raw)) s = .next { s with a := 0, ip := s.ip + 2 }) ∧
    (raw = 3#3 → s.a = 117440 → exec (.adv (comboOfWord raw)) s = .next { s with a := 14680, ip := s.ip + 2 })

/-- R92: BDV, for every raw operand word. -/
def Obligations.BdvWritesQuotientToB : Prop :=
  ∀ (raw : Word) (s : State),
    decode 6#3 raw = .bdv (comboOfWord raw) ∧
    (raw = 7#3 → exec (.bdv (comboOfWord raw)) s = .next { s with status := .error .invalidOperand }) ∧
    (raw ≠ 7#3 → ∃ k, comboValue (comboOfWord raw) s = some k ∧
      exec (.bdv (comboOfWord raw)) s = .next { s with b := s.a / 2 ^ k, ip := s.ip + 2 }) ∧
    (raw = 0#3 → exec (.bdv (comboOfWord raw)) s = .next { s with b := s.a, ip := s.ip + 2 }) ∧
    (raw = 4#3 → exec (.bdv (comboOfWord raw)) s = .next { s with b := 0, ip := s.ip + 2 }) ∧
    (raw = 5#3 → exec (.bdv (comboOfWord raw)) s = .next { s with b := s.a / 2 ^ s.b, ip := s.ip + 2 }) ∧
    (raw = 5#3 → s.a = 100 → s.b = 3 →
      exec (.bdv (comboOfWord raw)) s = .next { s with a := 100, b := 12, ip := s.ip + 2 })

/-- R93: CDV, for every raw operand word. -/
def Obligations.CdvWritesQuotientToC : Prop :=
  ∀ (raw : Word) (s : State),
    decode 7#3 raw = .cdv (comboOfWord raw) ∧
    (raw = 7#3 → exec (.cdv (comboOfWord raw)) s = .next { s with status := .error .invalidOperand }) ∧
    (raw ≠ 7#3 → ∃ k, comboValue (comboOfWord raw) s = some k ∧
      exec (.cdv (comboOfWord raw)) s = .next { s with c := s.a / 2 ^ k, ip := s.ip + 2 }) ∧
    (raw = 0#3 → exec (.cdv (comboOfWord raw)) s = .next { s with c := s.a, ip := s.ip + 2 }) ∧
    (raw = 4#3 → exec (.cdv (comboOfWord raw)) s = .next { s with c := 0, ip := s.ip + 2 }) ∧
    (raw = 6#3 → exec (.cdv (comboOfWord raw)) s = .next { s with c := s.a / 2 ^ s.c, ip := s.ip + 2 }) ∧
    (raw = 6#3 → s.a = 100 → s.c = 2 → exec (.cdv (comboOfWord raw)) s = .next { s with c := 25, ip := s.ip + 2 })

/-- The shared quotient (R90) and its corner cases (R94, which the spec marks as derived): floor and truncation toward zero
agree (C4), and a shift count of any size is taken whole. -/
def Obligations.QuotientIsFloorForEveryShift : Prop :=
  ∀ (s : State) (k : Nat),
    dv s k = s.a / 2 ^ k ∧
    ((dv s k : Nat) : Int) = Int.tdiv (s.a : Int) (2 ^ k) ∧
    dv s k ≤ s.a ∧
    dv s 0 = s.a ∧
    dv s s.a = 0 ∧
    (s.a = 0 → dv s k = 0) ∧
    (dv s k = 0 ↔ s.a < 2 ^ k)

/-- R100: BXL, for every literal. -/
def Obligations.BxlXorsLiteralIntoB : Prop :=
  ∀ (raw : Word) (s : State),
    decode 1#3 raw = .bxl raw ∧
    (∃ t, exec (.bxl raw) s = .next t ∧ t = { s with b := s.b ^^^ raw.toNat, ip := s.ip + 2 } ∧
      (∀ j, 3 ≤ j → t.b.testBit j = s.b.testBit j) ∧
      (raw = 0#3 → t.b = s.b) ∧
      (raw = 7#3 → ∀ j, j < 3 → t.b.testBit j = !s.b.testBit j) ∧
      (s.b % 8 = raw.toNat → t.b % 8 = 0) ∧
      (∃ u, exec (.bxl raw) t = .next u ∧ u.b = s.b) ∧
      (s.b = 5 → raw = 7#3 → t.b = 2))

/-- R101: BST, for every raw operand word. -/
def Obligations.BstWritesLowThreeBitsToB : Prop :=
  ∀ (raw : Word) (s : State),
    decode 2#3 raw = .bst (comboOfWord raw) ∧
    (raw = 7#3 → exec (.bst (comboOfWord raw)) s = .next { s with status := .error .invalidOperand }) ∧
    (raw ≠ 7#3 → ∃ v, comboValue (comboOfWord raw) s = some v ∧ v % 8 ≤ 7 ∧
      exec (.bst (comboOfWord raw)) s = .next { s with b := v % 8, ip := s.ip + 2 }) ∧
    (raw.toNat ≤ 3 → exec (.bst (comboOfWord raw)) s = .next { s with b := raw.toNat, ip := s.ip + 2 }) ∧
    (raw = 4#3 → exec (.bst (comboOfWord raw)) s = .next { s with b := s.a % 8, ip := s.ip + 2 }) ∧
    (raw = 5#3 → exec (.bst (comboOfWord raw)) s = .next { s with b := s.b % 8, ip := s.ip + 2 }) ∧
    (raw = 6#3 → exec (.bst (comboOfWord raw)) s = .next { s with b := s.c % 8, ip := s.ip + 2 }) ∧
    (raw = 4#3 → s.a = 29 → exec (.bst (comboOfWord raw)) s = .next { s with b := 5, ip := s.ip + 2 })

/-- R102: BXC, for every raw word. -/
def Obligations.BxcXorsCIntoB : Prop :=
  ∀ (raw : Word) (s : State),
    decode 4#3 raw = .bxc raw ∧
    (∃ t, exec (.bxc raw) s = .next t ∧ t = { s with b := s.b ^^^ s.c, ip := s.ip + 2 } ∧
      t.c = s.c ∧
      (s.b = s.c → t.b = 0) ∧
      (s.c = 0 → t.b = s.b) ∧
      (∀ w, s.b < 2 ^ w → s.c < 2 ^ w → t.b < 2 ^ w) ∧
      (s.b = 5 → s.c = 3 → t.b = 6))

/-- R110: JNZ, for every target. A taken jump to its own index leaves the state as it is, so a run that reaches one never ends. -/
def Obligations.JnzJumpsIffANonzero : Prop :=
  (∀ (raw : Word) (s : State),
    decode 3#3 raw = .jnz raw ∧
    (s.a ≠ 0 → exec (.jnz raw) s = .next { s with ip := raw.toNat }) ∧
    (s.a = 0 → exec (.jnz raw) s = .next { s with ip := s.ip + 2 })) ∧
  (∀ (raw : Word) (s : State), s.status = .running → s.a ≠ 0 → raw.toNat = s.ip →
    memRead s s.ip = some 3#3 → memRead s (s.ip + 1) = some raw →
    step s = .next s ∧ ∀ fuel, runFuel fuel s = .outOfFuel s)

/-- R115: OUT, for every raw operand word. -/
def Obligations.OutAppendsLowThreeBits : Prop :=
  ∀ (raw : Word) (s : State),
    decode 5#3 raw = .out (comboOfWord raw) ∧
    (raw = 7#3 → exec (.out (comboOfWord raw)) s = .next { s with status := .error .invalidOperand }) ∧
    (raw ≠ 7#3 → ∃ v d, comboValue (comboOfWord raw) s = some v ∧ d.toNat = v % 8 ∧
      exec (.out (comboOfWord raw)) s = .next { s with out := s.out ++ [d], ip := s.ip + 2 }) ∧
    (raw.toNat ≤ 3 → exec (.out (comboOfWord raw)) s = .next { s with out := s.out ++ [raw], ip := s.ip + 2 }) ∧
    (raw = 4#3 → s.a = 2024 →
      exec (.out (comboOfWord raw)) s = .next { s with out := s.out ++ [0#3], ip := s.ip + 2 })

/-- R143: where one register is source and destination, the value read is the one from before the write. -/
def Obligations.SourceIsReadBeforeItIsWritten : Prop :=
  ∀ s : State,
    exec (.adv (.reg .a)) s = .next { s with a := s.a / 2 ^ s.a, ip := s.ip + 2 } ∧
    exec (.bst (.reg .b)) s = .next { s with b := s.b % 8, ip := s.ip + 2 } ∧
    exec (.bdv (.reg .b)) s = .next { s with b := s.a / 2 ^ s.b, ip := s.ip + 2 } ∧
    exec (.cdv (.reg .c)) s = .next { s with c := s.a / 2 ^ s.c, ip := s.ip + 2 } ∧
    ∀ raw, exec (.bxc raw) s = .next { s with b := s.b ^^^ s.c, ip := s.ip + 2 }

/-! ## Frames -/

/-- What each instruction leaves unchanged (R22, R27, R31, R43, R121): A but for ADV; B but for BXL, BST, BXC, BDV; C but for CDV; the
buffer but for OUT; the status but for an illegal instruction, which leaves everything else, the IP too; and every word of the program. -/
def Obligations.FrameOfEveryInstruction : Prop :=
  ∀ (i : Instr) (s t : State), exec i s = .next t →
    ((∀ k, i ≠ .adv k) → t.a = s.a) ∧
    ((∀ l, i ≠ .bxl l) → (∀ k, i ≠ .bst k) → (∀ l, i ≠ .bxc l) → (∀ k, i ≠ .bdv k) → t.b = s.b) ∧
    ((∀ k, i ≠ .cdv k) → t.c = s.c) ∧
    ((∀ k, i ≠ .out k) → t.out = s.out) ∧
    (i.legal = true → t.status = s.status) ∧
    (i.legal = false → t.a = s.a ∧ t.b = s.b ∧ t.c = s.c ∧ t.ip = s.ip ∧ t.out = s.out) ∧
    (∀ j, memRead t j = memRead s j)

/-- A register that R22 gives an instruction no read of has no influence on it: with another value in that register, the instruction
does the same, and the register keeps that value unless the instruction overwrites it. -/
def Obligations.UnreadRegisterHasNoInfluence : Prop :=
  ∀ (i : Instr) (r : Reg) (v : Nat) (s t : State), reads i r = false → exec i s = .next t →
    exec i (writeReg r v s) = .next (if writes i = some r ∧ i.legal = true then t else writeReg r v t)

/-- No step, and no run, changes a word of the program or its length (R43, R141). -/
def Obligations.ProgramIsNeverWritten : Prop :=
  (∀ s t : State, step s = .next t → t.prog = s.prog) ∧
  (∀ (fuel : Nat) (s : State), (runFuel fuel s).state.prog = s.prog)

/-- A step depends on the program only through the pair it fetches (R42, R46): with any other program that gives the same pair, or
none where there was none, it does the same. -/
def Obligations.StepReadsOnlyTheFetchedPair : Prop :=
  ∀ (s t : State) (q : List Word), fetchPair { s with prog := q } = fetchPair s → step s = .next t →
    step { s with prog := q } = .next { t with prog := q }

/-- R27, R28, R116: a step appends the digit the output port emits, or nothing; and with any other buffer it does the same, so no
step reads the buffer. The port is the spec's decision D12. -/
def Obligations.StepAppendsTheEmittedDigitAndReadsNoOutput : Prop :=
  ∀ s t : State, step s = .next t →
    t.out = s.out ++ (emitted s).toList ∧
    (∀ o : List Digit, step { s with out := o } = .next { t with out := o ++ (emitted s).toList }) ∧
    (∀ d, emitted s = some d ↔
      ∃ raw v, memRead s s.ip = some 5#3 ∧ memRead s (s.ip + 1) = some raw ∧
        comboValue (comboOfWord raw) s = some v ∧ d.toNat = v % 8)

/-- R28, R116: a run's buffer keeps every digit it had, in place, and gains at most one digit a step. -/
def Obligations.RunOnlyAppendsOutput : Prop :=
  ∀ (fuel : Nat) (s : State), ∃ ds, (runFuel fuel s).state.out = s.out ++ ds ∧ ds.length ≤ fuel

/-! ## The execution cycle -/

/-- R84: a RUNNING step is the pseudocode, written out over plain numbers. -/
def Obligations.RunningStepFollowsThePseudocode : Prop :=
  ∀ s : State, s.status = .running → step s = .next (Sys2Proof.Claims.stepR84 s)

/-- When the words at IP and IP + 1 decode to an instruction, legal or not, a RUNNING step is exactly that instruction's `exec`: nothing
is added around it (R42, R84). -/
def Obligations.StepRunsTheDecodedInstruction : Prop :=
  ∀ (s : State) (op raw : Word), s.status = .running → memRead s s.ip = some op →
    memRead s (s.ip + 1) = some raw → step s = exec (decode op raw) s

/-- R76: with no whole pair at IP, a step sets HALTED and changes nothing else. -/
def Obligations.HaltCheckHalts : Prop :=
  ∀ s : State, s.status = .running → (s.prog.length ≤ s.ip ∨ s.prog.length ≤ s.ip + 1) →
    step s = .next { s with status := .halted }

/-- R78: a RUNNING step halts if and only if IP is not a valid index for both an opcode and its operand; otherwise it executes an
instruction or faults. -/
def Obligations.HaltsIffNoWholePair : Prop :=
  ∀ s : State, s.status = .running →
    ((∃ t, step s = .next t ∧ t.status = .halted) ↔ ¬(s.ip < s.prog.length ∧ s.ip + 1 < s.prog.length)) ∧
    (s.ip + 1 < s.prog.length → ∃ t, step s = .next t ∧ (t.status = .running ∨ t.status = .error .invalidOperand))

/-- Dispatch is total (R66, R86): every pair of words, in every state, executes to a next state, which is the raise, the advance by 2
or the jump. -/
def Obligations.EveryPairExecutes : Prop :=
  ∀ (op raw : Word) (s : State), ∃ t, exec (decode op raw) s = .next t ∧
    ((IllegalPair op raw ∧ t = { s with status := .error .invalidOperand }) ∨
      (¬IllegalPair op raw ∧ t.status = s.status ∧
        (t.ip = s.ip + 2 ∨ (op = 3#3 ∧ s.a ≠ 0 ∧ t.ip = raw.toNat))))

/-- R26, R85: after a step that executes an instruction the IP is the taken target of JNZ, else IP + 2; a halting or faulting step leaves it. -/
def Obligations.IpAfterAStep : Prop :=
  ∀ s t : State, step s = .next t →
    (t.status = .running → ∃ op raw, memRead s s.ip = some op ∧ memRead s (s.ip + 1) = some raw ∧
      t.ip = if op = 3#3 ∧ s.a ≠ 0 then raw.toNat else s.ip + 2) ∧
    (t.status ≠ .running → t.ip = s.ip)

/-- R31: the transitions of the status. From RUNNING to RUNNING, to HALTED exactly where the halt check fires, to ERROR exactly where
the fetched pair is illegal; from HALTED and ERROR no step is defined; RESET gives RUNNING. -/
def Obligations.StatusTransitions : Prop :=
  (∀ s : State, s.status = .running → ∃ t, step s = .next t ∧
    ((t.status = .running ∧ ∃ op raw, fetchPair s = some (op, raw) ∧ ¬IllegalPair op raw) ∨
      (t.status = .halted ∧ s.prog.length ≤ s.ip + 1) ∨
      (t.status = .error .invalidOperand ∧ ∃ op raw, fetchPair s = some (op, raw) ∧ IllegalPair op raw))) ∧
  (∀ s : State, s.status = .halted → ∀ t, step s ≠ .next t) ∧
  (∀ s : State, s.status = .error .invalidOperand → ∀ t, step s ≠ .next t) ∧
  (∀ (prog : List Word) (x y z : Nat), (State.resetWith prog x y z).status = .running)

/-- The stops `step` answers once the run is over are the model's own names for R31's undefined step (log entry 5). -/
def Obligations.StepAfterTheEndIsNamed : Prop :=
  ∀ s : State,
    (s.status = .halted ↔ step s = .fault .runHalted) ∧
    (s.status = .error .invalidOperand ↔ step s = .fault (.runFailed .invalidOperand)) ∧
    ∀ r, step s ≠ .refused r

/-- A faulting step changes the status alone and leaves IP at the illegal pair, which can then be read off (R121, R123, R124; that IP is
kept is the spec's decision D8). -/
def Obligations.FaultIsPrecise : Prop :=
  ∀ s t : State, step s = .next t → t.status = .error .invalidOperand →
    t = { s with status := .error .invalidOperand } ∧
    ∃ op, faultingPair t = some (op, 7#3) ∧ (op = 0#3 ∨ op = 2#3 ∨ op = 5#3 ∨ op = 6#3 ∨ op = 7#3)

/-- R111 (the spec's decision D6): a taken JNZ may go to any target. If no whole pair is there the next step halts; else the next step
executes the pair at the target, odd or even. -/
def Obligations.TakenJumpRunsOrHaltsAtItsTarget : Prop :=
  ∀ (s : State) (raw : Word), s.status = .running → s.a ≠ 0 → fetchPair s = some (3#3, raw) →
    ∃ t, step s = .next t ∧ t = { s with ip := raw.toNat } ∧
      (s.prog.length ≤ raw.toNat + 1 → step t = .next { t with status := .halted }) ∧
      (∀ op' raw', s.prog[raw.toNat]? = some op' → s.prog[raw.toNat + 1]? = some raw' →
        step t = exec (decode op' raw') t)

/-! ## Invariants -/

/-- R23 (marked derived in the spec): every step keeps all registers within any admitted width, so no instruction overflows a register
of any finite instance of the engine. -/
def Obligations.EveryStepKeepsRegisterWidth : Prop :=
  ∀ (width : RegWidth) (s t : State), width.admitted = true → RegsFit width s → step s = .next t → RegsFit width t

/-- R25 (marked derived in the spec): every step keeps IP in `[0, max(N, 7)]`. -/
def Obligations.EveryStepKeepsIpInRange : Prop :=
  ∀ s t : State, IpInRange s → step s = .next t → IpInRange t

/-- Both invariants hold after RESET, for every program and every initial values that fit, and at `State.reset`. -/
def Obligations.InvariantsHoldAfterReset : Prop :=
  (∀ (prog : List Word) (x y z : Nat), IpInRange (State.resetWith prog x y z)) ∧
  (∀ (width : RegWidth) (prog : List Word) (x y z : Nat), width.holds x = true → width.holds y = true →
    width.holds z = true → RegsFit width (State.resetWith prog x y z)) ∧
  IpInRange State.reset ∧ ∀ width : RegWidth, RegsFit width State.reset

/-! ## Runs -/

/-- How a run ends (R76, R87, R121, R123): HALTED with no whole pair at IP, or ERROR with IP at an illegal pair. -/
def Obligations.RunEndsAtAHaltOrAnIllegalPair : Prop :=
  ∀ (fuel : Nat) (s t : State), s.status = .running → runFuel fuel s = .ended t →
    (t.status = .halted ∧ t.prog.length ≤ t.ip + 1) ∨
    (t.status = .error .invalidOperand ∧ ∃ op raw, fetchPair t = some (op, raw) ∧ IllegalPair op raw)

/-- Fuel only bounds the run (R75, R88, D13): every step while RUNNING has a next state; out of fuel means still RUNNING after that
many steps; and a run that has ended ends in the same state with more fuel. -/
def Obligations.FuelOnlyBoundsTheRun : Prop :=
  (∀ (fuel : Nat) (s t : State), runFuel fuel s ≠ .noStep t) ∧
  (∀ (fuel : Nat) (s t : State), runFuel fuel s = .outOfFuel t →
    t.status = .running ∧ Sys2Proof.core.run fuel s = .next t) ∧
  (∀ (fuel more : Nat) (s t : State), runFuel fuel s = .ended t → runFuel (fuel + more) s = .ended t)

/-- R77, R87, R88, C2: a run from a RUNNING state ends HALTED, or ends ERROR, or never ends, and exactly one of the three. -/
def Obligations.RunHaltsOrFailsOrNeverEnds : Prop :=
  ∀ s : State, s.status = .running →
    ((∃ fuel, EndsHalted fuel s) ∨ (∃ fuel, EndsFailed fuel s) ∨ NeverEnds s) ∧
    (∀ fuel more, EndsHalted fuel s → ¬EndsFailed more s) ∧
    (∀ fuel, EndsHalted fuel s → ¬NeverEnds s) ∧
    (∀ fuel, EndsFailed fuel s → ¬NeverEnds s)

/-! ## Reset, launch, ports, syntax -/

/-- R36: the state after RESET. -/
def Obligations.ResetGivesTheLaunchState : Prop :=
  ∀ (prog : List Word) (aInit bInit cInit : Nat),
    (State.resetWith prog aInit bInit cInit).a = aInit ∧
    (State.resetWith prog aInit bInit cInit).b = bInit ∧
    (State.resetWith prog aInit bInit cInit).c = cInit ∧
    (State.resetWith prog aInit bInit cInit).ip = 0 ∧
    (State.resetWith prog aInit bInit cInit).out = [] ∧
    (State.resetWith prog aInit bInit cInit).status = .running ∧
    (State.resetWith prog aInit bInit cInit).prog = prog

/-- R79, D20: a program shorter than one pair halts at the first step with an empty buffer and nothing else changed, and so does
`State.reset`, whose empty program and zero registers are the model's choice (log entry 1). -/
def Obligations.ShortProgramHaltsAtTheFirstStep : Prop :=
  (∀ (prog : List Word) (aInit bInit cInit : Nat), prog.length < 2 →
    step (State.resetWith prog aInit bInit cInit) =
      .next { a := aInit, b := bInit, c := cInit, ip := 0, out := [], status := .halted, prog := prog }) ∧
  State.reset = { a := 0, b := 0, c := 0, ip := 0, out := [], status := .running, prog := [] }

/-- Boot accepts exactly the admitted launches: a register width of R5, and for R139 an even number of words each in `[0, 7]` and
registers that fit; and it makes the RESET state of them (D7: the loader refuses an odd length). That a width R5 does not admit is
rejected, by its name whatever else the launch holds, is the model's choice (log entry 14). -/
def Obligations.BootAcceptsExactlyAdmittedLaunches : Prop :=
  (∀ (width : RegWidth) (listing : List Nat) (x y z : Nat) (s : State),
    boot width listing x y z = .ok s ↔
      (width.admitted = true ∧ (∀ v ∈ listing, v ≤ 7) ∧ listing.length % 2 = 0 ∧
        width.holds x = true ∧ width.holds y = true ∧ width.holds z = true ∧
        s = State.resetWith (listing.map (BitVec.ofNat 3)) x y z)) ∧
  (∀ (w : Nat) (listing : List Nat) (x y z : Nat), w < 3 →
    boot (.bits w) listing x y z = .error (.widthNotAdmitted (.bits w)))

/-- The host's placing of a table word (log entry 4): the next step runs that instruction, and the registers, IP, the buffer and every
other word of the program stay. -/
def Obligations.PlacedWordRunsNext : Prop :=
  ∀ (s : State) (i : Instr),
    let t := s.withFetchWord 8 (instr6 (opcodeOf i) (rawOf i))
    step t = exec i t ∧ t.a = s.a ∧ t.b = s.b ∧ t.c = s.c ∧ t.ip = s.ip ∧ t.out = s.out ∧ t.status = .running ∧
    ∀ j w, j ≠ s.ip → j ≠ s.ip + 1 → memRead s j = some w → memRead t j = some w

/-- R30 (the numbers are the spec's decision D9): the status port's codes, and 3 never taken. -/
def Obligations.StatusPortCodes : Prop :=
  statusCode .running = 0#2 ∧ statusCode .halted = 1#2 ∧ statusCode (.error .invalidOperand) = 2#2 ∧
  statusOfCode 3#2 = none ∧ (∀ st, statusOfCode (statusCode st) = some st) ∧ ∀ s : State, statusPort s ≠ 3#2

/-- R87, R127: the result the host reads off a run that ended is its buffer if it HALTED; if it ended ERROR it is the error, whatever
the buffer holds; and there is none while the run goes on. -/
def Obligations.ResultOfARun : Prop :=
  ∀ (fuel : Nat) (s t : State), s.status = .running →
    (runFuel fuel s = .ended t →
      (t.status = .halted ∧ result t = some (.output t.out)) ∨
      (t.status = .error .invalidOperand ∧ ∀ o, result { t with out := o } = some (.failed .invalidOperand))) ∧
    (runFuel fuel s = .outOfFuel t → result t = none)

/-- R69 (the spec's decision D14): a mnemonic and its raw operand name one instruction, for every instruction; and nothing else is
assembled (R70). -/
def Obligations.AssemblyNamesTheInstruction : Prop :=
  (∀ i : Instr, assemble (mnemonic i) (rawOf i).toNat = some i) ∧
  (∀ (name : String) (raw : Nat) (i : Instr), assemble name raw = some i → name = mnemonic i ∧ raw = (rawOf i).toNat)
end

