-- ==== Sys2Proof/Laws/Launch.lean ====
section
/-! SUPPORT. All that boot can accept, said once (R5, R139). -/

namespace Sys2Proof.Machine

/-- Inversion: a boot that answers a state had an admitted width, a loadable listing and registers that fit. -/
theorem boot_ok_cases {width : RegWidth} {listing : List Nat} {x y z : Nat} {s : State}
    (h : boot width listing x y z = .ok s) :
    width.admitted = true ∧ width.holds x = true ∧ width.holds y = true ∧ width.holds z = true ∧
      ∃ ws, loadProgram listing = .ok ws ∧ s = State.resetWith ws x y z := by
  unfold boot at h
  split at h
  · cases h
  · split at h
    · cases h
    · repeat' split at h
      all_goals first | (cases h; done) | simp_all

end Sys2Proof.Machine
end

