-- ==== Sys2Proof/Laws/State.lean ====
section
/-! SUPPORT. What each update leaves in each field, and registers read after a write. -/

namespace Sys2Proof.Machine

/-! ### setIp -/

@[simp] theorem setIp_a (n : Nat) (s : State) : (setIp n s).a = s.a := rfl
@[simp] theorem setIp_b (n : Nat) (s : State) : (setIp n s).b = s.b := rfl
@[simp] theorem setIp_c (n : Nat) (s : State) : (setIp n s).c = s.c := rfl
@[simp] theorem setIp_ip (n : Nat) (s : State) : (setIp n s).ip = n := rfl
@[simp] theorem setIp_out (n : Nat) (s : State) : (setIp n s).out = s.out := rfl
@[simp] theorem setIp_status (n : Nat) (s : State) : (setIp n s).status = s.status := rfl
@[simp] theorem setIp_prog (n : Nat) (s : State) : (setIp n s).prog = s.prog := rfl

/-! ### advance -/

@[simp] theorem advance_a (s : State) : (advance s).a = s.a := rfl
@[simp] theorem advance_b (s : State) : (advance s).b = s.b := rfl
@[simp] theorem advance_c (s : State) : (advance s).c = s.c := rfl
@[simp] theorem advance_ip (s : State) : (advance s).ip = s.ip + 2 := rfl
@[simp] theorem advance_out (s : State) : (advance s).out = s.out := rfl
@[simp] theorem advance_status (s : State) : (advance s).status = s.status := rfl
@[simp] theorem advance_prog (s : State) : (advance s).prog = s.prog := rfl

/-! ### outAppend -/

@[simp] theorem outAppend_a (d : Digit) (s : State) : (outAppend d s).a = s.a := rfl
@[simp] theorem outAppend_b (d : Digit) (s : State) : (outAppend d s).b = s.b := rfl
@[simp] theorem outAppend_c (d : Digit) (s : State) : (outAppend d s).c = s.c := rfl
@[simp] theorem outAppend_ip (d : Digit) (s : State) : (outAppend d s).ip = s.ip := rfl
@[simp] theorem outAppend_out (d : Digit) (s : State) : (outAppend d s).out = s.out ++ [d] := rfl
@[simp] theorem outAppend_status (d : Digit) (s : State) : (outAppend d s).status = s.status := rfl
@[simp] theorem outAppend_prog (d : Digit) (s : State) : (outAppend d s).prog = s.prog := rfl

/-! ### halt -/

@[simp] theorem halt_a (s : State) : (halt s).a = s.a := rfl
@[simp] theorem halt_b (s : State) : (halt s).b = s.b := rfl
@[simp] theorem halt_c (s : State) : (halt s).c = s.c := rfl
@[simp] theorem halt_ip (s : State) : (halt s).ip = s.ip := rfl
@[simp] theorem halt_out (s : State) : (halt s).out = s.out := rfl
@[simp] theorem halt_status (s : State) : (halt s).status = .halted := rfl
@[simp] theorem halt_prog (s : State) : (halt s).prog = s.prog := rfl

/-! ### raiseError -/

@[simp] theorem raiseError_a (k : ErrorKind) (s : State) : (raiseError k s).a = s.a := rfl
@[simp] theorem raiseError_b (k : ErrorKind) (s : State) : (raiseError k s).b = s.b := rfl
@[simp] theorem raiseError_c (k : ErrorKind) (s : State) : (raiseError k s).c = s.c := rfl
@[simp] theorem raiseError_ip (k : ErrorKind) (s : State) : (raiseError k s).ip = s.ip := rfl
@[simp] theorem raiseError_out (k : ErrorKind) (s : State) : (raiseError k s).out = s.out := rfl
@[simp] theorem raiseError_status (k : ErrorKind) (s : State) : (raiseError k s).status = .error k := rfl
@[simp] theorem raiseError_prog (k : ErrorKind) (s : State) : (raiseError k s).prog = s.prog := rfl

/-! ### writeReg -/

@[simp] theorem writeReg_a_a (v : Nat) (s : State) : (writeReg .a v s).a = v := rfl
@[simp] theorem writeReg_a_b (v : Nat) (s : State) : (writeReg .a v s).b = s.b := rfl
@[simp] theorem writeReg_a_c (v : Nat) (s : State) : (writeReg .a v s).c = s.c := rfl
@[simp] theorem writeReg_b_a (v : Nat) (s : State) : (writeReg .b v s).a = s.a := rfl
@[simp] theorem writeReg_b_b (v : Nat) (s : State) : (writeReg .b v s).b = v := rfl
@[simp] theorem writeReg_b_c (v : Nat) (s : State) : (writeReg .b v s).c = s.c := rfl
@[simp] theorem writeReg_c_a (v : Nat) (s : State) : (writeReg .c v s).a = s.a := rfl
@[simp] theorem writeReg_c_b (v : Nat) (s : State) : (writeReg .c v s).b = s.b := rfl
@[simp] theorem writeReg_c_c (v : Nat) (s : State) : (writeReg .c v s).c = v := rfl
@[simp] theorem writeReg_ip (r : Reg) (v : Nat) (s : State) : (writeReg r v s).ip = s.ip := by cases r <;> rfl
@[simp] theorem writeReg_out (r : Reg) (v : Nat) (s : State) : (writeReg r v s).out = s.out := by cases r <;> rfl
@[simp] theorem writeReg_status (r : Reg) (v : Nat) (s : State) : (writeReg r v s).status = s.status := by cases r <;> rfl
@[simp] theorem writeReg_prog (r : Reg) (v : Nat) (s : State) : (writeReg r v s).prog = s.prog := by cases r <;> rfl

/-! ### readReg -/

@[simp] theorem readReg_a (s : State) : readReg s .a = s.a := rfl
@[simp] theorem readReg_b (s : State) : readReg s .b = s.b := rfl
@[simp] theorem readReg_c (s : State) : readReg s .c = s.c := rfl

@[simp] theorem readReg_writeReg_same (r : Reg) (v : Nat) (s : State) : readReg (writeReg r v s) r = v := by
  cases r <;> rfl

theorem readReg_writeReg_other {q r : Reg} (h : q ≠ r) (v : Nat) (s : State) :
    readReg (writeReg r v s) q = readReg s q := by
  cases q <;> cases r <;> first | rfl | exact absurd rfl h

@[simp] theorem readReg_setIp (n : Nat) (s : State) (r : Reg) : readReg (setIp n s) r = readReg s r := by
  cases r <;> rfl

@[simp] theorem readReg_advance (s : State) (r : Reg) : readReg (advance s) r = readReg s r := by
  cases r <;> rfl

@[simp] theorem readReg_outAppend (d : Digit) (s : State) (r : Reg) : readReg (outAppend d s) r = readReg s r := by
  cases r <;> rfl

@[simp] theorem readReg_halt (s : State) (r : Reg) : readReg (halt s) r = readReg s r := by
  cases r <;> rfl

@[simp] theorem readReg_raiseError (k : ErrorKind) (s : State) (r : Reg) :
    readReg (raiseError k s) r = readReg s r := by
  cases r <;> rfl

/-- Two states are equal when every field is: the form in which a result is compared with the rules. -/
theorem State.eq_of_fields {s t : State} (ha : s.a = t.a) (hb : s.b = t.b) (hc : s.c = t.c) (hip : s.ip = t.ip)
    (hout : s.out = t.out) (hstatus : s.status = t.status) (hprog : s.prog = t.prog) : s = t := by
  cases s; cases t; simp_all

end Sys2Proof.Machine
end

