-- ==== Sys2Proof/Laws/Memory.lean ====
section
/-! SUPPORT. The program store: reading it, placing a word in it, and fetching a pair. The store is a list of words, so it needs no
canonical form: `prog_eq_of_reads` says that equal reads are equal stores. -/

namespace Sys2Proof.Machine

theorem memRead_eq_none_iff (s : State) (i : Nat) : memRead s i = none ↔ progLen s ≤ i := by
  simp [memRead, progLen]

theorem memRead_eq_some_of_lt {s : State} {i : Nat} (h : i < progLen s) : memRead s i = some (s.prog[i]'h) := by
  simp only [memRead]; exact List.getElem?_eq_getElem h

theorem lt_of_memRead {s : State} {i : Nat} {w : Word} (h : memRead s i = some w) : i < progLen s := by
  by_contra hlt
  rw [(memRead_eq_none_iff s i).2 (by omega)] at h
  cases h

/-- Two stores that read the same at every index are equal (R29, R40). -/
theorem prog_eq_of_reads {s t : State} (h : ∀ i, memRead s i = memRead t i) : s.prog = t.prog :=
  List.ext_getElem? h

theorem haltCheck_iff (s : State) : haltCheck s = true ↔ progLen s ≤ s.ip + 1 := by
  simp [haltCheck]

theorem fetchPair_eq_none_iff (s : State) : fetchPair s = none ↔ progLen s ≤ s.ip + 1 := by
  unfold fetchPair
  by_cases h : progLen s ≤ s.ip + 1
  · simp [(haltCheck_iff s).2 h, h]
  · have hc : haltCheck s = false := by simpa [haltCheck] using h
    rw [memRead_eq_some_of_lt (i := s.ip) (by omega), memRead_eq_some_of_lt (i := s.ip + 1) (by omega)]
    simp [hc, h]

theorem fetchPair_eq_some_iff (s : State) (op raw : Word) :
    fetchPair s = some (op, raw) ↔ memRead s s.ip = some op ∧ memRead s (s.ip + 1) = some raw := by
  unfold fetchPair
  by_cases h : progLen s ≤ s.ip + 1
  · simp [(haltCheck_iff s).2 h, (memRead_eq_none_iff s (s.ip + 1)).2 h]
  · have hc : haltCheck s = false := by simpa [haltCheck] using h
    rw [memRead_eq_some_of_lt (i := s.ip) (by omega), memRead_eq_some_of_lt (i := s.ip + 1) (by omega)]
    simp [hc]

/-- A placed word is read back. -/
theorem getElem?_placeWord_same (p : List Word) (i : Nat) (w : Word) : (placeWord p i w)[i]? = some w := by
  induction i generalizing p with
  | zero => cases p <;> simp [placeWord]
  | succ i ih => cases p <;> simp [placeWord, ih]

/-- Placing a word leaves every other word there is. -/
theorem getElem?_placeWord_other {p : List Word} {i j : Nat} (w v : Word) (hj : j ≠ i) (h : p[j]? = some v) :
    (placeWord p i w)[j]? = some v := by
  induction i generalizing p j with
  | zero =>
    cases p with
    | nil => simp at h
    | cons x xs => cases j with
      | zero => exact absurd rfl hj
      | succ j => simpa [placeWord] using h
  | succ i ih =>
    cases p with
    | nil => simp at h
    | cons x xs => cases j with
      | zero => simpa [placeWord] using h
      | succ j => simpa [placeWord] using ih (by omega) (by simpa using h)

end Sys2Proof.Machine
end

