-- ==== Sys2Proof/Laws/Operands.lean ====
section
/-! SUPPORT. One lemma per shared operation over operands: what resolving an operand can do, and the arithmetic in plain terms. -/

namespace Sys2Proof.Machine

@[simp] theorem comboValue_lit (n : Fin 4) (s : State) : comboValue (.lit n) s = some n.val := rfl
@[simp] theorem comboValue_reg (r : Reg) (s : State) : comboValue (.reg r) s = some (readReg s r) := rfl
@[simp] theorem comboValue_invalid (s : State) : comboValue .invalid s = none := rfl

theorem comboValue_eq_none_iff (k : Combo) (s : State) : comboValue k s = none ↔ k.legal = false := by
  cases k <;> simp [Combo.legal]

theorem withCombo_of_value {k : Combo} {s : State} {v : Nat} (h : comboValue k s = some v) (f : Nat → State) :
    withCombo k s f = .next (f v) := by
  simp [withCombo, h]

@[simp] theorem withCombo_invalid (s : State) (f : Nat → State) :
    withCombo .invalid s f = .next (raiseError .invalidOperand s) := rfl

/-- All that resolving a combo operand can do: the effect on its value, or the raise (R81). -/
theorem withCombo_next_iff (k : Combo) (s t : State) (f : Nat → State) :
    withCombo k s f = .next t ↔
      (∃ v, comboValue k s = some v ∧ t = f v) ∨ (k = .invalid ∧ t = raiseError .invalidOperand s) := by
  cases k <;> simp [withCombo, eq_comm]

theorem dv_eq_div (s : State) (k : Nat) : dv s k = s.a / 2 ^ k := by
  simp [dv, Nat.shiftRight_eq_div_pow]

theorem digitOf_toNat (v : Nat) : (digitOf v).toNat = v % 8 := by
  rw [digitOf, mod8, BitVec.toNat_ofNat]; omega

/-- All that a division can do (R90). -/
theorem divideInto_next_iff (dest : Reg) (k : Combo) (s t : State) :
    divideInto dest k s = .next t ↔
      (∃ v, comboValue k s = some v ∧ t = advance (writeReg dest (dv s v) s)) ∨
      (k = .invalid ∧ t = raiseError .invalidOperand s) :=
  withCombo_next_iff k s t _

/-- All that BST can do (R101). -/
theorem execBst_next_iff (k : Combo) (s t : State) :
    execBst k s = .next t ↔
      (∃ v, comboValue k s = some v ∧ t = advance (writeReg .b (mod8 v) s)) ∨
      (k = .invalid ∧ t = raiseError .invalidOperand s) :=
  withCombo_next_iff k s t _

/-- All that OUT can do (R115). -/
theorem execOut_next_iff (k : Combo) (s t : State) :
    execOut k s = .next t ↔
      (∃ v, comboValue k s = some v ∧ t = advance (outAppend (digitOf v) s)) ∨
      (k = .invalid ∧ t = raiseError .invalidOperand s) :=
  withCombo_next_iff k s t _

/-- All that JNZ can do (R110). -/
theorem execJnz_next_iff (l : Word) (s t : State) :
    execJnz l s = .next t ↔ (s.a ≠ 0 ∧ t = setIp l.toNat s) ∨ (s.a = 0 ∧ t = advance s) := by
  unfold execJnz aNonzero literalValue
  by_cases h : s.a = 0
  · simp only [h, bne_self_eq_false, Bool.false_eq_true, if_false, Host.Outcome.next.injEq]
    simp [eq_comm (a := t)]
  · simp only [bne_iff_ne, ne_eq, h, not_false_eq_true, if_true, Host.Outcome.next.injEq]
    simp [eq_comm (a := t)]

end Sys2Proof.Machine
end

