-- ==== Sys2Proof/Laws/PerInstr.lean ====
section
/-! SUPPORT. The per-instruction family OperandForm: how an instruction's words and its legality follow from its operand mode (R60, R64). -/

namespace Sys2Proof.Laws.OperandForm

/-- The opcode word has the instruction's operand mode (R60), and the instruction is illegal exactly when its mode is combo and its raw
word is 7 (R64, R65). -/
def Statement (i : Instr) : Prop :=
  modeOfOpcode (opcodeOf i) = i.mode ∧ (i.legal = false ↔ i.mode = .combo ∧ rawOf i = 7#3)

/-- A combo operand's raw word is 7 exactly when it is the illegal one (R62). -/
theorem wordOfCombo_eq_seven_iff (k : Combo) : k.legal = false ↔ wordOfCombo k = 7#3 := by
  cases k with
  | lit n => revert n; decide
  | reg r => cases r <;> decide
  | invalid => decide

theorem adv (k : Combo) : Statement (.adv k) :=
  ⟨rfl, by simpa [Instr.legal, Instr.mode, rawOf] using wordOfCombo_eq_seven_iff k⟩

theorem bxl (l : Word) : Statement (.bxl l) := ⟨rfl, by simp [Instr.legal, Instr.mode]⟩

theorem bst (k : Combo) : Statement (.bst k) :=
  ⟨rfl, by simpa [Instr.legal, Instr.mode, rawOf] using wordOfCombo_eq_seven_iff k⟩

theorem jnz (l : Word) : Statement (.jnz l) := ⟨rfl, by simp [Instr.legal, Instr.mode]⟩

theorem bxc (l : Word) : Statement (.bxc l) := ⟨rfl, by simp [Instr.legal, Instr.mode]⟩

theorem out (k : Combo) : Statement (.out k) :=
  ⟨rfl, by simpa [Instr.legal, Instr.mode, rawOf] using wordOfCombo_eq_seven_iff k⟩

theorem bdv (k : Combo) : Statement (.bdv k) :=
  ⟨rfl, by simpa [Instr.legal, Instr.mode, rawOf] using wordOfCombo_eq_seven_iff k⟩

theorem cdv (k : Combo) : Statement (.cdv k) :=
  ⟨rfl, by simpa [Instr.legal, Instr.mode, rawOf] using wordOfCombo_eq_seven_iff k⟩

end Sys2Proof.Laws.OperandForm
end

