-- ==== Sys2Proof/Laws/Step.lean ====
section
/-! SUPPORT. All that a step can do, said once (R84). -/

namespace Sys2Proof.Machine

/-- A RUNNING step with no pair to fetch halts (R76). -/
theorem step_of_fetch_none {s : State} (h : s.status = .running) (hf : fetchPair s = none) :
    step s = .next (halt s) := by
  simp only [step, h, hf]

/-- A RUNNING step with a pair to fetch executes it (R84). -/
theorem step_of_fetch_some {s : State} {op raw : Word} (h : s.status = .running)
    (hf : fetchPair s = some (op, raw)) : step s = exec (decode op raw) s := by
  simp only [step, h, hf]

/-- Inversion: a step that answers a next state started RUNNING, and either halted with no whole pair at IP or executed the pair it
fetched. -/
theorem step_next_cases {s t : State} (h : step s = .next t) :
    s.status = .running ∧
      ((fetchPair s = none ∧ t = halt s) ∨
        ∃ op raw, fetchPair s = some (op, raw) ∧ exec (decode op raw) s = .next t) := by
  unfold step at h
  split at h
  · cases h
  · cases h
  · refine ⟨‹_›, ?_⟩
    split at h
    · exact .inl ⟨‹_›, by cases h; rfl⟩
    · exact .inr ⟨_, _, ‹_›, h⟩

end Sys2Proof.Machine
end

