-- ==== Sys2Proof/Laws/Run.lean ====
section
/-! SUPPORT. The executor under fuel, one equation per case, the one induction over a run, and the output port by case. -/

namespace Sys2Proof.Machine

@[simp] theorem Verdict.ended_state (s : State) : (Verdict.ended s).state = s := rfl
@[simp] theorem Verdict.outOfFuel_state (s : State) : (Verdict.outOfFuel s).state = s := rfl
@[simp] theorem Verdict.noStep_state (s : State) : (Verdict.noStep s).state = s := rfl

/-- A run that is over stays in its state (R31). -/
theorem runFuel_of_over {s : State} (h : s.status ≠ .running) (fuel : Nat) : runFuel fuel s = .ended s := by
  cases fuel <;> simp [runFuel, h]

theorem runFuel_zero {s : State} (h : s.status = .running) : runFuel 0 s = .outOfFuel s := by
  simp [runFuel, h]

theorem runFuel_succ {s t : State} (h : step s = .next t) (fuel : Nat) : runFuel (fuel + 1) s = runFuel fuel t := by
  simp [runFuel, (step_next_cases h).1, h]

/-- The host's run of the machine, one step at the front. -/
theorem core_run_succ {s t : State} (h : step s = .next t) (k : Nat) :
    Sys2Proof.core.run (k + 1) s = Sys2Proof.core.run k t := by
  have h' : Sys2Proof.core.step s = .next t := h
  exact (Host.Core.run.eq_2 Sys2Proof.core s k).trans (by rw [h'])

/-- The induction over a run, once: a relation that is reflexive and that a step in front extends holds between a run's first state and
the state of its verdict. -/
theorem runFuel_induction {P : State → State → Prop} (refl : ∀ s, P s s)
    (cons : ∀ s t u, step s = .next t → P t u → P s u) (fuel : Nat) (s : State) : P s (runFuel fuel s).state := by
  induction fuel generalizing s with
  | zero => unfold runFuel; split <;> exact refl _
  | succ n ih =>
    unfold runFuel
    split
    · split
      · exact cons _ _ _ ‹_› (ih _)
      · exact refl _
      · exact refl _
    · exact refl _

theorem emitted_of_fetch_none {s : State} (h : fetchPair s = none) : emitted s = none := by
  unfold emitted
  cases s.status <;> simp [h]

theorem emitted_of_fetch_some {s : State} {op raw : Word} (hr : s.status = .running)
    (h : fetchPair s = some (op, raw)) : emitted s = digitAppended (decode op raw) s := by
  simp [emitted, hr, h]

end Sys2Proof.Machine
end

