-- ==== Sys2Proof/Tests/Slice0.lean ====
section
/-! SUPPORT. Tests with expected results from the spec (30_encoding.md, 95_test_vectors.md), one step each, and a witness that meets the
hypotheses of each statement that has some. -/

namespace Sys2Proof.Tests

open Sys2Proof Sys2Proof.Machine

/-- The next state an outcome answers, in a form `decide` compares. -/
def nextState : Host.Outcome State Fault Refusal → Option State
  | .next s => some s
  | .fault _ => none
  | .refused _ => none

/-- One step from the RESET state of a program. -/
def stepOf (prog : List Word) (a b c : Nat) : Option State := nextState (step (State.resetWith prog a b c))

/-- The state a vector expects, for a program that is not changed. -/
def expect (prog : List Word) (a b c ip : Nat) (out : List Digit) (status : Status) : Option State :=
  some { a := a, b := b, c := c, ip := ip, out := out, status := status, prog := prog }

/-! ## Decoding: words written out from the encoding tables of R62 and R63 -/

theorem test_decode_adv : decode 0b000#3 0b001#3 = .adv (.lit 1) := by decide
theorem test_decode_bxl : decode 0b001#3 0b111#3 = .bxl 7#3 := by decide
theorem test_decode_bst : decode 0b010#3 0b100#3 = .bst (.reg .a) := by decide
theorem test_decode_jnz : decode 0b011#3 0b101#3 = .jnz 5#3 := by decide
theorem test_decode_bxc : decode 0b100#3 0b110#3 = .bxc 6#3 := by decide
theorem test_decode_out : decode 0b101#3 0b101#3 = .out (.reg .b) := by decide
theorem test_decode_bdv : decode 0b110#3 0b110#3 = .bdv (.reg .c) := by decide
theorem test_decode_cdv : decode 0b111#3 0b111#3 = .cdv .invalid := by decide

/-- V44's listing `0,1,5`: `adv 1`, and the word 5 left over. -/
theorem test_decode_listing : decodeListing [0#3, 1#3, 5#3] = ([.adv (.lit 1)], [5#3]) := by decide
theorem test_decode_no_words : decodeFront [] = .error .noWords := rfl
theorem test_decode_operand_missing : decodeFront [5#3] = .error (.operandMissing 5#3) := rfl
theorem test_decode_not_a_word : wordOfNat 8 = .error (.notAWord 8) := rfl

/-- `match` 0x28 of the table's OUT row, and its illegal form 0x2f. -/
theorem test_table_out : decodeTableWord 8 0x28 = some (.out (.lit 0)) := by decide
theorem test_table_out_illegal : decodeTableWord 8 0x2f = some (.out .invalid) := by decide
theorem test_table_no_pair : decodeTableWord 8 0x40 = none := by decide

/-! ## Well-formedness (R64, R65), parameters (R5) and the loader (R139) -/

theorem test_illegal_adv : (Instr.adv .invalid).legal = false := by decide
theorem test_illegal_bst : (Instr.bst .invalid).legal = false := by decide
theorem test_illegal_out : (Instr.out .invalid).legal = false := by decide
theorem test_illegal_bdv : (Instr.bdv .invalid).legal = false := by decide
theorem test_illegal_cdv : (Instr.cdv .invalid).legal = false := by decide
theorem test_legal_seven :
    (Instr.bxl 7#3).legal = true ∧ (Instr.jnz 7#3).legal = true ∧ (Instr.bxc 7#3).legal = true := by decide
theorem test_width_two_refused : (RegWidth.bits 2).admitted = false := by decide
theorem test_boot_not_a_word : launch [0, 8] 0 0 0 = .error (.notAWord 8) := rfl
theorem test_boot_width : boot (.bits 2) [0, 1] 1 0 0 = .error (.widthNotAdmitted (.bits 2)) := rfl
theorem test_boot_odd_length : launch [0, 1, 5] 0 0 0 = .error (.oddLength 3) := rfl
theorem test_boot_too_wide : boot (.bits 3) [0, 1] 7 8 0 = .error (.registerTooWide .b 8) := rfl
theorem test_boot : launch [0, 1] 4 0 0 = .ok (State.resetWith [0#3, 1#3] 4 0 0) := rfl

/-! ## Instructions: vectors of 95, the first step -/

/-- V08: a huge shift count gives 0 and is not reduced. -/
theorem test_adv_huge_shift :
    stepOf [0#3, 5#3] 1024 (2 ^ 70) 0 = expect [0#3, 5#3] 0 (2 ^ 70) 0 2 [] .running := by decide
/-- V05: the fault changes the status alone. -/
theorem test_adv_fault :
    stepOf [0#3, 7#3] 9 0 0 = expect [0#3, 7#3] 9 0 0 0 [] (.error .invalidOperand) := by decide
/-- V27: the bits above bit 2 stay. -/
theorem test_bxl_wide : stepOf [1#3, 7#3] 0 (2 ^ 64) 0 = expect [1#3, 7#3] 0 (2 ^ 64 + 7) 0 2 [] .running := by decide
/-- V23: B's own low bits. -/
theorem test_bst_own : stepOf [2#3, 5#3] 0 (2 ^ 64 + 13) 0 = expect [2#3, 5#3] 0 5 0 2 [] .running := by decide
/-- V20. -/
theorem test_bst_fault :
    stepOf [2#3, 7#3] 1 1 1 = expect [2#3, 7#3] 1 1 1 0 [] (.error .invalidOperand) := by decide
/-- V35: taken, to an index outside the program. -/
theorem test_jnz_taken : stepOf [3#3, 7#3] (2 ^ 64) 0 0 = expect [3#3, 7#3] (2 ^ 64) 0 0 7 [] .running := by decide
/-- V32: not taken. -/
theorem test_jnz_not_taken : stepOf [3#3, 0#3] 0 0 0 = expect [3#3, 0#3] 0 0 0 2 [] .running := by decide
/-- V29, with V30's ignored raw 7. -/
theorem test_bxc : stepOf [4#3, 7#3] 0 5 3 = expect [4#3, 7#3] 0 6 3 2 [] .running := by decide
/-- V41: a wide register is reduced modulo 8. -/
theorem test_out_wide :
    stepOf [5#3, 6#3] 0 0 (2 ^ 64 + 7) = expect [5#3, 6#3] 0 0 (2 ^ 64 + 7) 2 [7#3] .running := by decide
/-- V39. -/
theorem test_out_fault :
    stepOf [5#3, 7#3] 1 2 3 = expect [5#3, 7#3] 1 2 3 0 [] (.error .invalidOperand) := by decide
/-- V12: B is the shift count and the destination. -/
theorem test_bdv_own : stepOf [6#3, 5#3] 100 3 1 = expect [6#3, 5#3] 100 12 1 2 [] .running := by decide
/-- V14. -/
theorem test_bdv_fault :
    stepOf [6#3, 7#3] 1 1 1 = expect [6#3, 7#3] 1 1 1 0 [] (.error .invalidOperand) := by decide
/-- V17: C is the shift count and the destination. -/
theorem test_cdv_own : stepOf [7#3, 6#3] 100 1 2 = expect [7#3, 6#3] 100 1 25 2 [] .running := by decide
/-- V18: a fault even when A is 0. -/
theorem test_cdv_fault :
    stepOf [7#3, 7#3] 0 0 0 = expect [7#3, 7#3] 0 0 0 0 [] (.error .invalidOperand) := by decide

/-! ## The cycle -/

/-- V42: the empty program. -/
theorem test_halt_empty : stepOf [] 4 0 0 = expect [] 4 0 0 0 [] .halted := by decide
/-- V43: a lone word is never executed. -/
theorem test_halt_one_word : stepOf [5#3] 4 0 0 = expect [5#3] 4 0 0 0 [] .halted := by decide
/-- No step is defined once the run is over (R31). -/
theorem test_over : nextState (step { State.reset with status := .halted }) = none := by decide
/-- P5, step 2: at the odd index 3 the pair is `out 5`. -/
theorem test_odd_index :
    nextState (step { State.resetWith [3#3, 3#3, 0#3, 5#3, 5#3, 0#3] 1 6 0 with ip := 3 }) =
      expect [3#3, 3#3, 0#3, 5#3, 5#3, 0#3] 1 6 0 5 [6#3] .running := by decide
/-- V33: the run has not ended when the fuel runs out. -/
theorem test_out_of_fuel :
    runFuel 2 (State.resetWith [3#3, 0#3] 1 0 0) = .outOfFuel (State.resetWith [3#3, 0#3] 1 0 0) := by decide
/-- The host's placing at reset runs the table's first OUT word. -/
theorem test_placed_out :
    nextState (step (State.reset.withFetchWord 8 0x28)) = expect [5#3, 0#3] 0 0 0 2 [0#3] .running := by decide
/-- R69's own example. -/
theorem test_asm : toAsm (.jnz 0#3) = "jnz 0" := rfl

/-! ## Witnesses: states and operands that meet the statements' hypotheses -/

theorem witness_EvenIpRunsTheListedInstruction :
    let is : List Instr := [.adv (.lit 1), .out (.reg .a)]
    let s : State := { State.resetWith (encodeListing is) 4 0 0 with ip := 2 }
    is[1]? = some (.out (.reg .a)) ∧ s.prog = encodeListing is ∧ s.ip = 2 * 1 ∧ s.status = .running := by decide

theorem witness_IllegalPairsFaultOnlyWhenExecuted :
    IllegalPair 0#3 7#3 ∧ IllegalPair 7#3 7#3 ∧
    nextState (step (State.resetWith [0#3, 7#3] 9 0 0)) =
      some { State.resetWith [0#3, 7#3] 9 0 0 with status := .error .invalidOperand } := by decide

theorem witness_OnlyComboSevenRaises :
    (State.resetWith [0#3, 7#3] 9 0 0).status = .running ∧ IllegalPair (opcodeOf (.adv .invalid)) (rawOf (.adv .invalid)) ∧
    ¬IllegalPair (opcodeOf (.bxl 7#3)) (rawOf (.bxl 7#3)) := by decide

theorem witness_AdvWritesQuotientToA :
    (7#3 : Word) = 7#3 ∧ (6#3 : Word) ≠ 7#3 ∧ (State.resetWith [0#3, 3#3] 117440 0 0).a = 117440 := by decide

theorem witness_BdvWritesQuotientToB :
    (6#3 : Word) ≠ 7#3 ∧ (State.resetWith [6#3, 5#3] 100 3 0).a = 100 ∧
    (State.resetWith [6#3, 5#3] 100 3 0).b = 3 := by decide

theorem witness_CdvWritesQuotientToC :
    (0#3 : Word) ≠ 7#3 ∧ (State.resetWith [7#3, 6#3] 100 0 2).a = 100 ∧
    (State.resetWith [7#3, 6#3] 100 0 2).c = 2 := by decide

theorem witness_QuotientIsFloorForEveryShift :
    State.reset.a = 0 ∧ dv (State.resetWith [] 7 0 0) 3 = 0 ∧ dv (State.resetWith [] 8 0 0) 3 = 1 := by decide

theorem witness_BxlXorsLiteralIntoB :
    let s := State.resetWith [1#3, 7#3] 0 5 0
    let z := State.resetWith [1#3, 7#3] 0 15 0
    s.b = 5 ∧ (3 : Nat) ≤ 3 ∧ (2 : Nat) < 3 ∧ z.b % 8 = (7#3 : Word).toNat := by decide

theorem witness_BstWritesLowThreeBitsToB :
    (3#3 : Word).toNat ≤ 3 ∧ (6#3 : Word) ≠ 7#3 ∧ (State.resetWith [2#3, 4#3] 29 9 0).a = 29 := by decide

theorem witness_BxcXorsCIntoB :
    let s := State.resetWith [4#3, 0#3] 0 5 3
    let e := State.resetWith [4#3, 7#3] 0 5 5
    s.b = 5 ∧ s.c = 3 ∧ s.b < 2 ^ 3 ∧ s.c < 2 ^ 3 ∧ e.b = e.c ∧ State.reset.c = 0 := by decide

theorem witness_JnzJumpsIffANonzero :
    let s := State.resetWith [3#3, 0#3] 1 0 0
    s.status = .running ∧ s.a ≠ 0 ∧ (0#3 : Word).toNat = s.ip ∧ memRead s s.ip = some 3#3 ∧
      memRead s (s.ip + 1) = some 0#3 ∧ State.reset.a = 0 := by decide

theorem witness_OutAppendsLowThreeBits :
    (3#3 : Word).toNat ≤ 3 ∧ (6#3 : Word) ≠ 7#3 ∧ (State.resetWith [5#3, 4#3] 2024 0 0).a = 2024 := by decide

theorem witness_FrameOfEveryInstruction :
    nextState (exec (.adv (.lit 1)) (State.resetWith [0#3, 1#3] 4 0 0)) =
      some { State.resetWith [0#3, 1#3] 4 0 0 with a := 2, ip := 2 } ∧
    nextState (exec (.cdv .invalid) State.reset) = some { State.reset with status := .error .invalidOperand } ∧
    (Instr.adv (.lit 1)).legal = true ∧ (Instr.cdv .invalid).legal = false := by decide

theorem witness_UnreadRegisterHasNoInfluence :
    reads (.cdv (.reg .b)) .c = false ∧ reads (.jnz 0#3) .b = false ∧
    nextState (exec (.cdv (.reg .b)) (State.resetWith [] 8 1 0)) = some { State.resetWith [] 8 1 0 with c := 4, ip := 2 } := by
  decide

theorem witness_ProgramIsNeverWritten :
    nextState (step (State.resetWith [0#3, 1#3] 4 0 0)) =
      some { State.resetWith [0#3, 1#3] 4 0 0 with a := 2, ip := 2 } := by decide

theorem witness_StepReadsOnlyTheFetchedPair :
    let s := State.resetWith [0#3, 1#3] 4 0 0
    fetchPair { s with prog := [0#3, 1#3, 5#3] } = fetchPair s ∧
    nextState (step s) = some { s with a := 2, ip := 2 } := by decide

theorem witness_StepAppendsTheEmittedDigitAndReadsNoOutput :
    let s := State.resetWith [5#3, 4#3] 2025 0 0
    nextState (step s) = some { s with out := [1#3], ip := 2 } ∧ emitted s = some 1#3 ∧
    emitted (State.resetWith [0#3, 1#3] 4 0 0) = none := by decide

theorem witness_RunningStepFollowsThePseudocode : State.reset.status = .running := by decide

theorem witness_StepRunsTheDecodedInstruction :
    let s := State.resetWith [0#3, 1#3] 4 0 0
    s.status = .running ∧ memRead s s.ip = some 0#3 ∧ memRead s (s.ip + 1) = some 1#3 := by decide

theorem witness_HaltCheckHalts :
    let s := State.resetWith [5#3] 4 0 0
    s.status = .running ∧ s.prog.length ≤ s.ip + 1 ∧ ¬s.prog.length ≤ s.ip ∧ State.reset.prog.length ≤ State.reset.ip := by decide

theorem witness_HaltsIffNoWholePair :
    (State.resetWith [5#3, 0#3] 0 0 0).status = .running ∧
    (State.resetWith [5#3, 0#3] 0 0 0).ip + 1 < (State.resetWith [5#3, 0#3] 0 0 0).prog.length ∧
    ¬((State.resetWith [5#3] 0 0 0).ip + 1 < (State.resetWith [5#3] 0 0 0).prog.length) := by decide

theorem witness_IpAfterAStep :
    nextState (step (State.resetWith [3#3, 7#3] 1 0 0)) = some { State.resetWith [3#3, 7#3] 1 0 0 with ip := 7 } ∧
    nextState (step State.reset) = some { State.reset with status := .halted } := by decide

theorem witness_StatusTransitions :
    let s := State.resetWith [5#3, 7#3] 0 0 0
    s.status = .running ∧ { s with status := .halted }.status = .halted ∧
    nextState (step s) = some { s with status := .error .invalidOperand } := by decide

theorem witness_FaultIsPrecise :
    let s := State.resetWith [6#3, 7#3] 1 1 1
    nextState (step s) = some { s with status := .error .invalidOperand } ∧
    faultingPair { s with status := .error .invalidOperand } = some (6#3, 7#3) := by decide

theorem witness_TakenJumpRunsOrHaltsAtItsTarget :
    let s := State.resetWith [3#3, 3#3, 0#3, 5#3, 5#3, 0#3] 1 6 0
    let h := State.resetWith [3#3, 1#3] 1 0 0
    s.status = .running ∧ s.a ≠ 0 ∧ fetchPair s = some (3#3, 3#3) ∧ s.prog[3]? = some 5#3 ∧ s.prog[3 + 1]? = some 5#3 ∧
    h.status = .running ∧ h.a ≠ 0 ∧ fetchPair h = some (3#3, 1#3) ∧ h.prog.length ≤ (1#3 : Word).toNat + 1 := by decide

theorem witness_EveryStepKeepsRegisterWidth :
    let s := State.resetWith [1#3, 7#3] 7 0 7
    (RegWidth.bits 3).admitted = true ∧ (RegWidth.bits 3).holds s.a = true ∧ (RegWidth.bits 3).holds s.b = true ∧
      (RegWidth.bits 3).holds s.c = true ∧ nextState (step s) = some { s with b := 7, ip := 2 } := by decide

theorem witness_EveryStepKeepsIpInRange :
    let s := State.resetWith [3#3, 7#3] 1 0 0
    IpInRange s ∧ nextState (step s) = some { s with ip := 7 } := by decide

theorem witness_InvariantsHoldAfterReset :
    (RegWidth.bits 3).holds 7 = true ∧ (RegWidth.bits 3).holds 8 = false ∧ RegWidth.unbounded.holds (2 ^ 70) = true := by decide

theorem witness_RunEndsAtAHaltOrAnIllegalPair :
    let s := State.resetWith [0#3, 7#3] 9 0 0
    let h := State.resetWith [5#3] 4 0 0
    s.status = .running ∧ runFuel 1 s = .ended { s with status := .error .invalidOperand } ∧
    h.status = .running ∧ runFuel 1 h = .ended { h with status := .halted } := by decide

theorem witness_FuelOnlyBoundsTheRun :
    runFuel 1 State.reset = .ended { State.reset with status := .halted } ∧ runFuel 0 State.reset = .outOfFuel State.reset := by
  decide

theorem witness_RunHaltsOrFailsOrNeverEnds :
    State.reset.status = .running ∧ EndsHalted 1 State.reset ∧ EndsFailed 1 (State.resetWith [0#3, 7#3] 9 0 0) :=
  ⟨rfl, ⟨{ State.reset with status := .halted }, by decide⟩,
    ⟨{ State.resetWith [0#3, 7#3] 9 0 0 with status := .error .invalidOperand }, by decide⟩⟩

theorem witness_ShortProgramHaltsAtTheFirstStep : [(5#3 : Word)].length < 2 ∧ ([] : List Word).length < 2 := by decide

theorem witness_BootAcceptsExactlyAdmittedLaunches :
    (2 : Nat) < 3 ∧ ¬(3 : Nat) < 3 ∧
    boot (.bits 3) [0, 7] 7 0 7 = .ok (State.resetWith [0#3, 7#3] 7 0 7) := ⟨by decide, by decide, rfl⟩

theorem witness_PlacedWordRunsNext :
    let s := State.resetWith [0#3, 1#3, 5#3] 4 0 0
    (2 : Nat) ≠ s.ip ∧ (2 : Nat) ≠ s.ip + 1 ∧ memRead s 2 = some 5#3 := by decide

theorem witness_ResultOfARun :
    let s := State.resetWith [0#3, 7#3] 9 0 0
    s.status = .running ∧ runFuel 1 s = .ended { s with status := .error .invalidOperand } ∧
    runFuel 1 State.reset = .ended { State.reset with status := .halted } ∧ runFuel 0 s = .outOfFuel s := by decide

theorem witness_AssemblyNamesTheInstruction :
    assemble "bxc" 7 = some (.bxc 7#3) ∧ assemble "nop" 0 = none ∧ assemble "adv" 8 = none := by decide

end Sys2Proof.Tests
end

/-! PROOFS. The state family (10_state.md): what executing one instruction does to the IP and the status, the three ways a
RUNNING step ends, and the obligations O32, O33 and O43. -/

namespace Sys2Proof.Machine

/-! ### The decoder keeps both words -/

/-- The opcode word can be read back from the decoded instruction (R58). -/
@[simp] theorem opcodeOf_decode (op raw : Word) : opcodeOf (decode op raw) = op := by
  revert op raw; decide

/-- The operand word can be read back from the decoded instruction (R59). -/
@[simp] theorem rawOf_decode (op raw : Word) : rawOf (decode op raw) = raw := by
  revert op raw; decide

/-- The decoded instruction is illegal exactly for R64's five pairs. -/
theorem decode_legal_eq_false_iff (op raw : Word) : (decode op raw).legal = false ↔ IllegalPair op raw := by
  revert op raw; decide

/-! ### Executing one instruction -/

/-- The outcome `o` of an instruction run from `s` completes it: a next state with the status kept and the IP at `n`. -/
def CompletesAt (s : State) (n : Nat) (o : Host.Outcome State Fault Refusal) : Prop :=
  ∃ t, o = .next t ∧ t.status = s.status ∧ t.ip = n

/-- With a legal operand the outcome is the effect's, so what every effect does to status and IP is what happens. -/
theorem withCombo_completesAt {k : Combo} {s : State} {n : Nat} {f : Nat → State} (hk : k.legal = true)
    (hf : ∀ v, (f v).status = s.status ∧ (f v).ip = n) : CompletesAt s n (withCombo k s f) := by
  cases k with
  | lit m => exact ⟨f m.val, rfl, hf _⟩
  | reg r => exact ⟨f (readReg s r), rfl, hf _⟩
  | invalid => cases hk

/-- JNZ goes to its target when A is not 0 and past the pair otherwise (R110). -/
theorem execJnz_completesAt (l : Word) (s : State) :
    CompletesAt s (if s.a ≠ 0 then l.toNat else s.ip + 2) (execJnz l s) := by
  by_cases ha : s.a = 0
  · exact ⟨advance s, (execJnz_next_iff l s _).2 (.inr ⟨ha, rfl⟩), rfl, by simp [ha]⟩
  · exact ⟨setIp l.toNat s, (execJnz_next_iff l s _).2 (.inl ⟨ha, rfl⟩), rfl, by simp [ha]⟩

/-- A legal instruction keeps the status and moves the IP to JNZ's taken target or past the pair (R26, R85). -/
theorem exec_of_legal {i : Instr} (h : i.legal = true) (s : State) :
    CompletesAt s (if opcodeOf i = 3#3 ∧ s.a ≠ 0 then (rawOf i).toNat else s.ip + 2) (exec i s) := by
  cases i with
  | adv k => exact withCombo_completesAt h fun v => by simp [opcodeOf]
  | bxl l => exact ⟨_, rfl, by simp [opcodeOf]⟩
  | bst k => exact withCombo_completesAt h fun v => by simp [opcodeOf]
  | jnz l => simpa [exec, opcodeOf, rawOf] using execJnz_completesAt l s
  | bxc l => exact ⟨_, rfl, by simp [opcodeOf]⟩
  | out k => exact withCombo_completesAt h fun v => by simp [opcodeOf]
  | bdv k => exact withCombo_completesAt h fun v => by simp [opcodeOf]
  | cdv k => exact withCombo_completesAt h fun v => by simp [opcodeOf]

/-- Resolving an illegal operand raises InvalidOperand, whatever the effect was to be (R81). -/
theorem withCombo_of_illegal {k : Combo} (hk : k.legal = false) (s : State) (f : Nat → State) :
    withCombo k s f = .next (raiseError .invalidOperand s) := by
  simp [withCombo, (comboValue_eq_none_iff k s).2 hk]

/-- An illegal instruction raises InvalidOperand and has no other effect (R64, R121). -/
theorem exec_of_illegal {i : Instr} (h : i.legal = false) (s : State) :
    exec i s = .next (raiseError .invalidOperand s) := by
  cases i with
  | adv k => exact withCombo_of_illegal h s _
  | bst k => exact withCombo_of_illegal h s _
  | out k => exact withCombo_of_illegal h s _
  | bdv k => exact withCombo_of_illegal h s _
  | cdv k => exact withCombo_of_illegal h s _
  | bxl l => cases h
  | jnz l => cases h
  | bxc l => cases h

/-! ### One RUNNING step -/

/-- A RUNNING step answers a next state, in one of three ways: it halts with no pair to fetch, it completes a legal instruction,
or it raises InvalidOperand at an illegal one (R84, R86). -/
theorem running_step_cases {s : State} (h : s.status = .running) :
    ∃ t, step s = .next t ∧
      ((fetchPair s = none ∧ t = halt s) ∨
        ∃ op raw, fetchPair s = some (op, raw) ∧
          ((¬IllegalPair op raw ∧ t.status = .running ∧
              t.ip = if op = 3#3 ∧ s.a ≠ 0 then raw.toNat else s.ip + 2) ∨
            (IllegalPair op raw ∧ t = raiseError .invalidOperand s))) := by
  cases hf : fetchPair s with
  | none => exact ⟨halt s, step_of_fetch_none h hf, .inl ⟨rfl, rfl⟩⟩
  | some pair =>
    obtain ⟨op, raw⟩ := pair
    rw [step_of_fetch_some h hf]
    cases hl : (decode op raw).legal with
    | false =>
      have hill : IllegalPair op raw := (decode_legal_eq_false_iff op raw).1 hl
      exact ⟨_, exec_of_illegal hl s, .inr ⟨op, raw, rfl, .inr ⟨hill, rfl⟩⟩⟩
    | true =>
      have hleg : ¬IllegalPair op raw := by simp [← decode_legal_eq_false_iff, hl]
      obtain ⟨t, ht, hstatus, hip⟩ := exec_of_legal hl s
      rw [opcodeOf_decode, rawOf_decode] at hip
      exact ⟨t, ht, .inr ⟨op, raw, rfl, .inl ⟨hleg, hstatus.trans h, hip⟩⟩⟩

/-- No step is defined from a state whose status is not RUNNING (R31). -/
theorem step_ne_next_of_over {s : State} (h : s.status ≠ .running) (t : State) : step s ≠ .next t :=
  fun ht => h (step_next_cases ht).1

/-! ### The obligations -/

/-- Settles O32: of the three ways a step ends, only completing an instruction leaves RUNNING, and the other two keep the IP. -/
theorem ipAfterAStep : Obligations.IpAfterAStep := by
  intro s t h
  obtain ⟨u, hu, hcases⟩ := running_step_cases (step_next_cases h).1
  obtain rfl : u = t := Host.Outcome.next.inj (hu.symm.trans h)
  obtain ⟨-, rfl⟩ | ⟨op, raw, hf, ⟨-, hstatus, hip⟩ | ⟨-, rfl⟩⟩ := hcases
  · simp
  · obtain ⟨hop, hraw⟩ := (fetchPair_eq_some_iff s op raw).1 hf
    exact ⟨fun _ => ⟨op, raw, hop, hraw, hip⟩, fun hne => absurd hstatus hne⟩
  · simp

/-- Settles O33: the three ways a RUNNING step ends are the three transitions; a step answers a next state only from RUNNING. -/
theorem statusTransitions : Obligations.StatusTransitions := by
  refine ⟨fun s h => ?_, fun s h => step_ne_next_of_over (by simp [h]),
    fun s h => step_ne_next_of_over (by simp [h]), fun _ _ _ _ => rfl⟩
  obtain ⟨t, ht, hcases⟩ := running_step_cases h
  refine ⟨t, ht, ?_⟩
  obtain ⟨hf, rfl⟩ | ⟨op, raw, hf, ⟨hleg, hstatus, -⟩ | ⟨hill, rfl⟩⟩ := hcases
  · exact .inr (.inl ⟨rfl, (fetchPair_eq_none_iff s).1 hf⟩)
  · exact .inl ⟨hstatus, op, raw, hf, hleg⟩
  · exact .inr (.inr ⟨rfl, op, raw, hf, hill⟩)

/-- Settles O43: each field of `State.resetWith` is the value R36 gives it, the IP by way of the reset vector 0. -/
theorem resetGivesTheLaunchState : Obligations.ResetGivesTheLaunchState :=
  fun _ _ _ _ => ⟨rfl, rfl, rfl, rfl, rfl, rfl, rfl⟩

end Sys2Proof.Machine

/-! PROOFS. The encoding family (30_encoding.md): the operand mode of a decoded instruction, the rows of the combo operand table,
the literal operand of BXL and JNZ, where a faulting step comes from, and the obligations O1, O7, O9 and O10. -/

namespace Sys2Proof.Machine

/-! ### Operands -/

/-- The operand mode of a decoded instruction is its opcode's, whatever the operand word is (R60). -/
theorem mode_decode (op raw : Word) : (decode op raw).mode = modeOfOpcode op := by
  revert op raw; decide

/-- The literal rows of the combo table: a raw word up to 3 resolves to itself in every state (R62). -/
theorem comboValue_of_raw_le_three {raw : Word} (h : raw.toNat ≤ 3) (s : State) :
    comboValue (comboOfWord raw) s = some raw.toNat := by
  have hlit : ∀ w : Word, w.toNat ≤ 3 → ∃ n : Fin 4, comboOfWord w = .lit n ∧ n.val = w.toNat := by decide
  obtain ⟨n, hn, hval⟩ := hlit raw h
  rw [hn, comboValue_lit, hval]

/-- The literal operand has no bit above bit 2, since the raw word has 3 bits (R61, R80). -/
theorem testBit_literalValue_of_ge {j : Nat} (h : 3 ≤ j) (raw : Word) : (literalValue raw).testBit j = false := by
  rw [literalValue, BitVec.testBit_toNat, BitVec.getLsbD_of_ge raw j h]

/-! ### The instructions with a literal operand -/

/-- BXL writes B XOR the raw word to B and advances, for every raw word (R100). -/
theorem exec_bxl (raw : Word) (s : State) :
    exec (.bxl raw) s = .next { s with b := s.b ^^^ raw.toNat, ip := s.ip + 2 } := rfl

/-- JNZ writes the IP alone: the raw word if A is not 0, the index past the pair otherwise (R110). -/
theorem exec_jnz (raw : Word) (s : State) :
    exec (.jnz raw) s = .next { s with ip := if s.a ≠ 0 then raw.toNat else s.ip + 2 } := by
  refine (execJnz_next_iff raw s _).2 ?_
  by_cases ha : s.a = 0
  · exact .inr ⟨ha, by simp [ha, advance, setIp]⟩
  · exact .inl ⟨ha, by simp [ha, setIp]⟩

/-! ### Faulting steps -/

/-- A step that ends in ERROR fetched an illegal pair, and raising InvalidOperand is all it did (R64, R121). -/
theorem illegalPair_of_step_error {s t : State} (h : step s = .next t) (ht : t.status = .error .invalidOperand) :
    ∃ op raw, fetchPair s = some (op, raw) ∧ IllegalPair op raw ∧ t = raiseError .invalidOperand s := by
  obtain ⟨u, hu, hcases⟩ := running_step_cases (step_next_cases h).1
  obtain rfl : u = t := Host.Outcome.next.inj (hu.symm.trans h)
  obtain ⟨-, rfl⟩ | ⟨op, raw, hf, ⟨-, hrunning, -⟩ | ⟨hill, hraise⟩⟩ := hcases
  · cases ht
  · cases hrunning.symm.trans ht
  · exact ⟨op, raw, hf, hill, hraise⟩

/-! ### The obligations -/

/-- Settles O7: an illegal pair decodes to an illegal instruction, whose execution is the raise alone, and no other step raises. -/
theorem illegalPairsFaultOnlyWhenExecuted : Obligations.IllegalPairsFaultOnlyWhenExecuted := by
  refine ⟨decode_legal_eq_false_iff, ⟨rfl, rfl, rfl, rfl, rfl⟩, fun op raw s hill => ?_, fun s t h ht => ?_⟩
  · exact exec_of_illegal ((decode_legal_eq_false_iff op raw).2 hill) s
  · obtain ⟨op, raw, hf, hill, -⟩ := illegalPair_of_step_error h ht
    obtain ⟨hop, hraw⟩ := (fetchPair_eq_some_iff s op raw).1 hf
    exact ⟨op, raw, hop, hraw, hill⟩

/-- Settles O1: each opcode's arm of the decoder names the instruction, and the opcode alone fixes the mode. -/
theorem opcodeMapAndOperandModes : Obligations.OpcodeMapAndOperandModes := fun raw =>
  ⟨⟨rfl, mode_decode 0#3 raw⟩, ⟨rfl, mode_decode 1#3 raw⟩, ⟨rfl, mode_decode 2#3 raw⟩, ⟨rfl, mode_decode 3#3 raw⟩,
    ⟨rfl, mode_decode 4#3 raw⟩, ⟨rfl, mode_decode 5#3 raw⟩, ⟨rfl, mode_decode 6#3 raw⟩, ⟨rfl, mode_decode 7#3 raw⟩⟩

/-- Settles O9: raw 0 to 3 are the literal rows, raw 4 to 6 read a whole register, and raw 7 is the operand without a value. -/
theorem comboOperandTable : Obligations.ComboOperandTable := fun s =>
  have hlit (raw : Word) (h : raw.toNat ≤ 3) := comboValue_of_raw_le_three h s
  ⟨hlit 0#3 (by decide), hlit 1#3 (by decide), hlit 2#3 (by decide), hlit 3#3 (by decide),
    comboValue_reg .a s, comboValue_reg .b s, comboValue_reg .c s, comboValue_invalid s, withCombo_invalid s⟩

/-- Settles O10: the raw word has 3 bits, and BXL and JNZ answer a next state that uses its value as it is. -/
theorem literalOperandIsTheRawWord : Obligations.LiteralOperandIsTheRawWord := fun raw s =>
  ⟨Nat.le_of_lt_succ raw.isLt, fun _ hj => testBit_literalValue_of_ge hj raw, exec_bxl raw s, exec_jnz raw s⟩

end Sys2Proof.Machine

/-! PROOFS. The execution cycle (40_execution_cycle.md): one equation for each instruction over plain numbers, which instructions
raise InvalidOperand, how the pseudocode's reference functions agree with the model, and the obligations O8, O27, O29 and O30. -/

namespace Sys2Proof.Machine

/-! ### One equation per instruction -/

/-- Resolving a combo operand always answers a next state: the effect on its value, or the raise where it has none (R81). -/
theorem withCombo_eq_next_elim (k : Combo) (s : State) (f : Nat → State) :
    withCombo k s f = .next ((comboValue k s).elim (raiseError .invalidOperand s) f) := by
  cases k <;> rfl

/-- ADV writes the quotient to A and advances (R91). -/
theorem exec_adv (k : Combo) (s : State) :
    exec (.adv k) s = withCombo k s fun v => { s with a := s.a / 2 ^ v, ip := s.ip + 2 } := by
  simp only [exec, execAdv, divideInto, dv_eq_div, writeReg, advance, setIp]

/-- BST writes the combo value modulo 8 to B and advances (R101). -/
theorem exec_bst (k : Combo) (s : State) :
    exec (.bst k) s = withCombo k s fun v => { s with b := v % 8, ip := s.ip + 2 } := rfl

/-- BXC writes B XOR C to B and advances, whatever its ignored word is (R83, R102). -/
theorem exec_bxc (raw : Word) (s : State) :
    exec (.bxc raw) s = .next { s with b := s.b ^^^ s.c, ip := s.ip + 2 } := rfl

/-- OUT appends the low three bits of the combo value and advances (R115). -/
theorem exec_out (k : Combo) (s : State) :
    exec (.out k) s =
      withCombo k s fun v => { s with out := s.out ++ [BitVec.ofNat 3 (v % 8)], ip := s.ip + 2 } := rfl

/-- BDV writes the quotient to B and advances (R92). -/
theorem exec_bdv (k : Combo) (s : State) :
    exec (.bdv k) s = withCombo k s fun v => { s with b := s.a / 2 ^ v, ip := s.ip + 2 } := by
  simp only [exec, execBdv, divideInto, dv_eq_div, writeReg, advance, setIp]

/-- CDV writes the quotient to C and advances (R93). -/
theorem exec_cdv (k : Combo) (s : State) :
    exec (.cdv k) s = withCombo k s fun v => { s with c := s.a / 2 ^ v, ip := s.ip + 2 } := by
  simp only [exec, execCdv, divideInto, dv_eq_div, writeReg, advance, setIp]

/-! ### Which instructions raise -/

/-- The combo operand can be read back from its raw word (R62). -/
@[simp] theorem comboOfWord_wordOfCombo (k : Combo) : comboOfWord (wordOfCombo k) = k := by
  cases k with
  | lit n => revert n; decide
  | reg r => cases r <;> rfl
  | invalid => rfl

/-- Every instruction is the decoding of its two words (R58, R63, R66). -/
@[simp] theorem decode_opcodeOf_rawOf (i : Instr) : decode (opcodeOf i) (rawOf i) = i := by
  cases i with
  | adv k => exact congrArg Instr.adv (comboOfWord_wordOfCombo k)
  | bxl l => rfl
  | bst k => exact congrArg Instr.bst (comboOfWord_wordOfCombo k)
  | jnz l => rfl
  | bxc l => rfl
  | out k => exact congrArg Instr.out (comboOfWord_wordOfCombo k)
  | bdv k => exact congrArg Instr.bdv (comboOfWord_wordOfCombo k)
  | cdv k => exact congrArg Instr.cdv (comboOfWord_wordOfCombo k)

/-- An instruction is illegal exactly when its own two words are one of R64's five pairs. -/
theorem legal_eq_false_iff (i : Instr) : i.legal = false ↔ IllegalPair (opcodeOf i) (rawOf i) := by
  rw [← decode_legal_eq_false_iff, decode_opcodeOf_rawOf]

/-- From RUNNING, a legal instruction ends RUNNING. -/
theorem exec_running_of_legal {i : Instr} {s : State} (hl : i.legal = true) (h : s.status = .running) :
    ∃ t, exec i s = .next t ∧ t.status = .running := by
  obtain ⟨t, ht, hstatus, -⟩ := exec_of_legal hl s
  exact ⟨t, ht, hstatus.trans h⟩

/-- From RUNNING, executing an instruction ends in ERROR exactly when the instruction is illegal (R64, R122). -/
theorem exec_error_iff {s : State} (h : s.status = .running) (i : Instr) :
    (∃ t, exec i s = .next t ∧ t.status = .error .invalidOperand) ↔ i.legal = false := by
  constructor
  · rintro ⟨t, ht, herror⟩
    by_contra hl
    obtain ⟨u, hu, hrunning⟩ := exec_running_of_legal (Bool.eq_true_of_not_eq_false hl) h
    obtain rfl : u = t := Host.Outcome.next.inj (hu.symm.trans ht)
    cases hrunning.symm.trans herror
  · exact fun hl => ⟨_, exec_of_illegal hl s, rfl⟩

/-! ### The pseudocode of R84 -/

/-- A word is one of the eight opcodes of R63. -/
theorem opcode_cases (op : Word) :
    op = 0#3 ∨ op = 1#3 ∨ op = 2#3 ∨ op = 3#3 ∨ op = 4#3 ∨ op = 5#3 ∨ op = 6#3 ∨ op = 7#3 := by
  revert op; decide

/-- R81's case table on numbers is the model's combo resolution of the raw word. -/
theorem comboR81_eq_comboValue (s : State) (raw : Word) :
    Claims.comboR81 s raw.toNat = comboValue (comboOfWord raw) s := by
  obtain rfl | rfl | rfl | rfl | rfl | rfl | rfl | rfl := opcode_cases raw <;> rfl

/-- The pseudocode with no whole pair at IP halts (R76). -/
theorem stepR84_of_fetch_none {s : State} (hf : fetchPair s = none) : Claims.stepR84 s = halt s :=
  if_pos ((fetchPair_eq_none_iff s).1 hf)

/-- The pseudocode with a pair to fetch is the decoded instruction's effect, opcode by opcode (R84). -/
theorem exec_decode_eq_stepR84 {s : State} {op raw : Word} (hf : fetchPair s = some (op, raw)) :
    exec (decode op raw) s = .next (Claims.stepR84 s) := by
  obtain ⟨hop, hraw⟩ := (fetchPair_eq_some_iff s op raw).1 hf
  have hlen : ¬s.prog.length ≤ s.ip + 1 := Nat.not_le.2 (lt_of_memRead hraw)
  unfold Claims.stepR84
  rw [if_neg hlen, List.getD_eq_getElem?_getD, List.getD_eq_getElem?_getD, show s.prog[s.ip]? = some op from hop,
    show s.prog[s.ip + 1]? = some raw from hraw]
  simp only [Option.getD_some, comboR81_eq_comboValue]
  obtain rfl | rfl | rfl | rfl | rfl | rfl | rfl | rfl := opcode_cases op
  · exact (exec_adv _ s).trans (withCombo_eq_next_elim _ s _)
  · exact exec_bxl raw s
  · exact (exec_bst _ s).trans (withCombo_eq_next_elim _ s _)
  · refine (exec_jnz raw s).trans ?_
    by_cases ha : s.a = 0 <;> simp [ha]
  · exact exec_bxc raw s
  · exact (exec_out _ s).trans (withCombo_eq_next_elim _ s _)
  · exact (exec_bdv _ s).trans (withCombo_eq_next_elim _ s _)
  · exact (exec_cdv _ s).trans (withCombo_eq_next_elim _ s _)

/-! ### The halt check -/

/-- A RUNNING step with no whole pair at IP halts (R76). -/
theorem step_eq_halt {s : State} (h : s.status = .running) (hlen : s.prog.length ≤ s.ip + 1) : step s = .next (halt s) :=
  step_of_fetch_none h ((fetchPair_eq_none_iff s).2 hlen)

/-- A RUNNING step with a whole pair at IP ends RUNNING or in ERROR (R78). -/
theorem step_running_or_error {s : State} (h : s.status = .running) (hlen : s.ip + 1 < s.prog.length) :
    ∃ t, step s = .next t ∧ (t.status = .running ∨ t.status = .error .invalidOperand) := by
  obtain ⟨t, ht, hcases⟩ := running_step_cases h
  refine ⟨t, ht, ?_⟩
  obtain ⟨hf, -⟩ | ⟨op, raw, -, ⟨-, hstatus, -⟩ | ⟨-, rfl⟩⟩ := hcases
  · exact absurd ((fetchPair_eq_none_iff s).1 hf) (Nat.not_le.2 hlen)
  · exact .inl hstatus
  · exact .inr rfl

/-! ### The obligations -/

/-- Settles O8: an instruction raises exactly when it is illegal, and BXL, JNZ and BXC are always legal. -/
theorem onlyComboSevenRaises : Obligations.OnlyComboSevenRaises :=
  ⟨fun i _ h => (exec_error_iff h i).trans (legal_eq_false_iff i),
    fun _ _ h => ⟨exec_running_of_legal rfl h, exec_running_of_legal rfl h, exec_running_of_legal rfl h⟩,
    fun raw raw' s => (exec_bxc raw s).trans (exec_bxc raw' s).symm⟩

/-- Settles O27: both the step and the pseudocode halt with no pair to fetch, and agree on every opcode with one. -/
theorem runningStepFollowsThePseudocode : Obligations.RunningStepFollowsThePseudocode := by
  intro s h
  cases hf : fetchPair s with
  | none => rw [step_of_fetch_none h hf, stepR84_of_fetch_none hf]
  | some pair => rw [step_of_fetch_some h hf, exec_decode_eq_stepR84 hf]

/-- Settles O30: with a whole pair at IP the step's status is not HALTED, and without one the step is the halt. -/
theorem haltsIffNoWholePair : Obligations.HaltsIffNoWholePair := by
  refine fun s h => ⟨⟨?_, fun hno => ⟨halt s, step_eq_halt h (by omega), rfl⟩⟩, step_running_or_error h⟩
  rintro ⟨t, ht, hhalted⟩ ⟨-, hlen⟩
  obtain ⟨u, hu, hstatus⟩ := step_running_or_error h hlen
  obtain rfl : u = t := Host.Outcome.next.inj (hu.symm.trans ht)
  simp [hhalted] at hstatus

/-- Settles O29: IP itself out of range leaves no whole pair either, so both cases are the halt check's. -/
theorem haltCheckHalts : Obligations.HaltCheckHalts :=
  fun _ h hno => step_eq_halt h (by omega)

end Sys2Proof.Machine

/-! PROOFS. The division family (41_division.md): what the raw operand word of a combo instruction resolves to, the rows that the
three divisions share whichever register they write, and the obligations O11, O12 and O13. -/

namespace Sys2Proof.Machine

/-! ### Resolving the raw operand word -/

/-- Raw 7 is the one operand word that is no legal combo operand (R62, R64). -/
theorem comboOfWord_legal_eq_false_iff (raw : Word) : (comboOfWord raw).legal = false ↔ raw = 7#3 := by
  revert raw; decide

/-- A raw word other than 7 resolves to a value in every state, and the instruction is its effect on that value (R81). -/
theorem withCombo_of_raw_ne_seven {raw : Word} (h : raw ≠ 7#3) (s : State) (f : Nat → State) :
    ∃ v, comboValue (comboOfWord raw) s = some v ∧ withCombo (comboOfWord raw) s f = .next (f v) := by
  cases hv : comboValue (comboOfWord raw) s with
  | some v => exact ⟨v, rfl, withCombo_of_value hv f⟩
  | none => exact absurd ((comboOfWord_legal_eq_false_iff raw).1 ((comboValue_eq_none_iff _ s).1 hv)) h

/-- A register operand resolves to the whole register, as it is before the effect (R62, R82). -/
theorem withCombo_reg (r : Reg) (s : State) (f : Nat → State) :
    withCombo (.reg r) s f = .next (f (readReg s r)) :=
  withCombo_of_value (comboValue_reg r s) f

/-! ### The rows the three divisions share -/

/-- A value divided by 2 to that value is 0, because `n < 2 ^ n` (R94). -/
theorem div_two_pow_self (n : Nat) : n / 2 ^ n = 0 :=
  Nat.div_eq_of_lt Nat.lt_two_pow_self

/-- A division by its raw operand word, wherever `write` puts the quotient: raw 7 raises, any other word gives the shift count, a
shift by 0 copies A, and a shift by A itself leaves 0 (R90, R94). -/
theorem withCombo_quotient_rows (raw : Word) (s : State) (write : Nat → State) :
    let outcome := withCombo (comboOfWord raw) s fun v => write (s.a / 2 ^ v)
    (raw = 7#3 → outcome = .next { s with status := .error .invalidOperand }) ∧
    (raw ≠ 7#3 → ∃ k, comboValue (comboOfWord raw) s = some k ∧ outcome = .next (write (s.a / 2 ^ k))) ∧
    (raw = 0#3 → outcome = .next (write s.a)) ∧
    (raw = 4#3 → outcome = .next (write 0)) := by
  refine ⟨?_, fun h => withCombo_of_raw_ne_seven h s _, ?_, ?_⟩
  · rintro rfl
    exact withCombo_invalid s _
  · rintro rfl
    exact (withCombo_of_value (comboValue_lit 0 s) _).trans (by simp)
  · rintro rfl
    exact (withCombo_reg .a s _).trans (by rw [readReg_a, div_two_pow_self])

/-! ### The obligations -/

/-- Settles O11: the shared rows with A as destination; the spec's example is a shift by the literal 3. -/
theorem advWritesQuotientToA : Obligations.AdvWritesQuotientToA := by
  intro raw s
  rw [exec_adv]
  obtain ⟨hseven, hvalue, -, hfour⟩ :=
    withCombo_quotient_rows raw s fun q => { s with a := q, ip := s.ip + 2 }
  refine ⟨rfl, hseven, hvalue, hfour, ?_⟩
  rintro rfl ha
  exact (withCombo_of_value (comboValue_lit 3 s) _).trans (by simp [ha])

/-- Settles O12: the shared rows with B as destination; BDV 5 resolves B before the write. -/
theorem bdvWritesQuotientToB : Obligations.BdvWritesQuotientToB := by
  intro raw s
  rw [exec_bdv]
  obtain ⟨hseven, hvalue, hzero, hfour⟩ :=
    withCombo_quotient_rows raw s fun q => { s with b := q, ip := s.ip + 2 }
  refine ⟨rfl, hseven, hvalue, hzero, hfour, ?_, ?_⟩
  · rintro rfl
    exact withCombo_reg .b s _
  · rintro rfl ha hb
    exact (withCombo_reg .b s _).trans (by simp [ha, hb])

/-- Settles O13: the shared rows with C as destination; CDV 6 resolves C before the write. -/
theorem cdvWritesQuotientToC : Obligations.CdvWritesQuotientToC := by
  intro raw s
  rw [exec_cdv]
  obtain ⟨hseven, hvalue, hzero, hfour⟩ :=
    withCombo_quotient_rows raw s fun q => { s with c := q, ip := s.ip + 2 }
  refine ⟨rfl, hseven, hvalue, hzero, hfour, ?_, ?_⟩
  · rintro rfl
    exact withCombo_reg .c s _
  · rintro rfl ha hc
    exact (withCombo_reg .c s _).trans (by simp [ha, hc])

end Sys2Proof.Machine

/-! PROOFS. The bitwise family (42_bitwise.md): what XOR with a 3-bit literal does bit by bit, and the obligations O15, O16
and O17. -/

namespace Sys2Proof.Machine

/-! ### XOR with a literal -/

/-- XOR with a literal leaves every bit above bit 2, since the literal has none (R100). -/
theorem testBit_xor_word_of_ge {j : Nat} (h : 3 ≤ j) (b : Nat) (raw : Word) :
    (b ^^^ raw.toNat).testBit j = b.testBit j := by
  have hraw : raw.toNat.testBit j = false := testBit_literalValue_of_ge h raw
  rw [Nat.testBit_xor, hraw, Bool.xor_false]

/-- XOR with 7 flips each of bits 0 to 2, since 7 has them all (R100). -/
theorem testBit_xor_seven_of_lt {j : Nat} (h : j < 3) (b : Nat) : (b ^^^ 7).testBit j = !b.testBit j := by
  have hseven : Nat.testBit 7 j = true := (Nat.testBit_two_pow_sub_one 3 j).trans (decide_eq_true h)
  rw [Nat.testBit_xor, hseven, Bool.xor_true]

/-- XOR with a literal equal to the low three bits clears them (R100). -/
theorem xor_mod_eight_of_low_eq {b : Nat} {raw : Word} (h : b % 8 = raw.toNat) : (b ^^^ raw.toNat) % 8 = 0 := by
  rw [← h]
  calc (b ^^^ b % 8) % 2 ^ 3
      = b % 8 ^^^ b % 8 % 8 := Nat.xor_mod_two_pow
    _ = 0 := by rw [Nat.mod_mod, Nat.xor_self]

/-! ### The obligations -/

/-- Settles O15: the corner cases are facts of the XOR that BXL writes, and XOR with one literal is its own inverse. -/
theorem bxlXorsLiteralIntoB : Obligations.BxlXorsLiteralIntoB := by
  refine fun raw s => ⟨rfl, _, exec_bxl raw s, rfl, fun j hj => testBit_xor_word_of_ge hj s.b raw, ?_, ?_,
    xor_mod_eight_of_low_eq, ⟨_, exec_bxl raw _, Nat.xor_xor_cancel_right s.b raw.toNat⟩, ?_⟩
  · rintro rfl
    exact Nat.xor_zero s.b
  · rintro rfl j hj
    exact testBit_xor_seven_of_lt hj s.b
  · rintro hb rfl
    simp [hb]

/-- Settles O16: a literal below 4 is its own remainder, and a register operand is read whole before the write. -/
theorem bstWritesLowThreeBitsToB : Obligations.BstWritesLowThreeBitsToB := by
  intro raw s
  rw [exec_bst]
  refine ⟨rfl, ?_, fun hraw => ?_, fun hraw => ?_, ?_, ?_, ?_, ?_⟩
  · rintro rfl
    exact withCombo_invalid s _
  · obtain ⟨v, hv, hexec⟩ := withCombo_of_raw_ne_seven hraw s fun v => { s with b := v % 8, ip := s.ip + 2 }
    exact ⟨v, hv, by omega, hexec⟩
  · have hmod : raw.toNat % 8 = raw.toNat := Nat.mod_eq_of_lt raw.isLt
    exact (withCombo_of_value (comboValue_of_raw_le_three hraw s) _).trans (by rw [hmod])
  · rintro rfl
    exact withCombo_reg .a s _
  · rintro rfl
    exact withCombo_reg .b s _
  · rintro rfl
    exact withCombo_reg .c s _
  · rintro rfl ha
    exact (withCombo_reg .a s _).trans (by simp [ha])

/-- Settles O17: BXC writes B XOR C whatever its raw word is, so the corner cases are facts of XOR. -/
theorem bxcXorsCIntoB : Obligations.BxcXorsCIntoB := by
  refine fun raw s => ⟨rfl, _, exec_bxc raw s, rfl, rfl, fun h => ?_, fun h => ?_, fun _ => Nat.xor_lt_two_pow,
    fun hb hc => ?_⟩
  · simp [h]
  · simp [h]
  · simp [hb, hc]

end Sys2Proof.Machine

/-! PROOFS. The control family (43_control.md): JNZ taken, not taken and to itself, a run from a state the step maps to itself, and the
obligation O18. -/

namespace Sys2Proof.Machine

/-! ### JNZ by branch -/

/-- The taken branch: the IP becomes the raw word (R110). -/
theorem exec_jnz_taken {s : State} (ha : s.a ≠ 0) (raw : Word) :
    exec (.jnz raw) s = .next { s with ip := raw.toNat } := by
  rw [exec_jnz, if_pos ha]

/-- The branch not taken: the IP moves past the pair (R110). -/
theorem exec_jnz_not_taken {s : State} (ha : s.a = 0) (raw : Word) :
    exec (.jnz raw) s = .next { s with ip := s.ip + 2 } := by
  rw [exec_jnz, if_neg (not_not_intro ha)]

/-! ### A run that stays where it is -/

/-- A taken JNZ to the IP it stands at changes nothing (R110). -/
theorem step_jnz_to_itself {s : State} {raw : Word} (h : s.status = .running) (ha : s.a ≠ 0)
    (hself : raw.toNat = s.ip) (hf : fetchPair s = some (3#3, raw)) : step s = .next s :=
  calc step s
      = exec (.jnz raw) s := step_of_fetch_some h hf
    _ = .next { s with ip := raw.toNat } := exec_jnz_taken ha raw
    _ = .next s := by rw [hself]

/-- A state the step maps to itself is RUNNING for good: every amount of fuel runs out in it (R88). -/
theorem runFuel_of_step_self {s : State} (h : step s = .next s) (fuel : Nat) : runFuel fuel s = .outOfFuel s := by
  induction fuel with
  | zero => exact runFuel_zero (step_next_cases h).1
  | succ n ih => exact (runFuel_succ h n).trans ih

/-! ### The obligations -/

/-- Settles O18: JNZ's two branches give the two next states, and a taken jump to itself is a step from the state to itself. -/
theorem jnzJumpsIffANonzero : Obligations.JnzJumpsIffANonzero := by
  refine ⟨fun raw s => ⟨rfl, fun ha => exec_jnz_taken ha raw, fun ha => exec_jnz_not_taken ha raw⟩, ?_⟩
  intro raw s hrunning ha hself hop hraw
  have hstep : step s = .next s :=
    step_jnz_to_itself hrunning ha hself ((fetchPair_eq_some_iff s 3#3 raw).2 ⟨hop, hraw⟩)
  exact ⟨hstep, runFuel_of_step_self hstep⟩

end Sys2Proof.Machine

/-! PROOFS. The output family (44_output.md): the digit that OUT appends for an operand with a value, and the obligation O19. -/

namespace Sys2Proof.Machine

/-! ### The digit OUT appends -/

/-- A word's own value needs no reduction: as a digit it is the word itself (R115). -/
@[simp] theorem digitOf_word (raw : Word) : digitOf raw.toNat = raw :=
  BitVec.eq_of_toNat_eq ((digitOf_toNat raw.toNat).trans (Nat.mod_eq_of_lt raw.isLt))

/-- OUT of an operand with a value appends that value's digit and advances (R115). -/
theorem exec_out_of_value {k : Combo} {s : State} {v : Nat} (h : comboValue k s = some v) :
    exec (.out k) s = .next { s with out := s.out ++ [digitOf v], ip := s.ip + 2 } :=
  (exec_out k s).trans (withCombo_of_value h _)

/-! ### The obligations -/

/-- Settles O19: raw 7 is the raise alone, and any other word has a value, whose digit is its remainder modulo 8; a literal is its own
digit, and 2024 is a multiple of 8. -/
theorem outAppendsLowThreeBits : Obligations.OutAppendsLowThreeBits := by
  refine fun raw s => ⟨rfl, ?_, fun hraw => ?_, fun hraw => ?_, ?_⟩
  · rintro rfl
    exact exec_of_illegal (i := .out .invalid) rfl s
  · obtain ⟨v, hv, hexec⟩ := withCombo_of_raw_ne_seven hraw s fun v => advance (outAppend (digitOf v) s)
    exact ⟨v, digitOf v, hv, digitOf_toNat v, hexec⟩
  · rw [exec_out_of_value (comboValue_of_raw_le_three hraw s), digitOf_word]
  · rintro rfl ha
    have hdigit : digitOf 2024 = 0#3 := by decide
    have hvalue : comboValue (.reg .a) s = some 2024 := (comboValue_reg .a s).trans (congrArg some ha)
    exact (exec_out_of_value hvalue).trans (by rw [hdigit])

end Sys2Proof.Machine

/-! PROOFS. The reset and hazards family (70_reset_and_hazards.md): no instruction, no step and no run writes the program store, and the
obligations O23 and O20. -/

namespace Sys2Proof.Machine

/-! ### The program store under one instruction, one step and a run -/

/-- Resolving a combo operand keeps the program if its effect does, since the raise does (R121). -/
theorem withCombo_next_prog {k : Combo} {s t : State} {f : Nat → State} (hf : ∀ v, (f v).prog = s.prog)
    (h : withCombo k s f = .next t) : t.prog = s.prog := by
  obtain ⟨v, -, rfl⟩ | ⟨-, rfl⟩ := (withCombo_next_iff k s t f).1 h
  · exact hf v
  · exact raiseError_prog _ s

/-- No instruction stores into the program (R43). -/
theorem exec_next_prog {i : Instr} {s t : State} (h : exec i s = .next t) : t.prog = s.prog := by
  cases i with
  | adv k => exact withCombo_next_prog (fun v => by simp) h
  | bst k => exact withCombo_next_prog (fun v => by simp) h
  | out k => exact withCombo_next_prog (fun v => by simp) h
  | bdv k => exact withCombo_next_prog (fun v => by simp) h
  | cdv k => exact withCombo_next_prog (fun v => by simp) h
  | bxl l =>
    obtain rfl := Host.Outcome.next.inj h
    simp
  | bxc l =>
    obtain rfl := Host.Outcome.next.inj h
    simp
  | jnz l => obtain ⟨-, rfl⟩ | ⟨-, rfl⟩ := (execJnz_next_iff l s t).1 h <;> simp

/-- A step keeps the program: it halts, or it executes one instruction (R141). -/
theorem step_next_prog {s t : State} (h : step s = .next t) : t.prog = s.prog := by
  obtain ⟨-, ⟨-, rfl⟩ | ⟨op, raw, -, hexec⟩⟩ := step_next_cases h
  · exact halt_prog s
  · exact exec_next_prog hexec

/-- A run keeps the program, because every one of its steps does (R141). -/
theorem runFuel_state_prog (fuel : Nat) (s : State) : (runFuel fuel s).state.prog = s.prog :=
  runFuel_induction (P := fun s t => t.prog = s.prog) (fun _ => rfl)
    (fun _ _ _ hstep ht => ht.trans (step_next_prog hstep)) fuel s

/-! ### The obligations -/

/-- Settles O23: no instruction stores, so no step does, and by induction over the fuel no run does. -/
theorem programIsNeverWritten : Obligations.ProgramIsNeverWritten :=
  ⟨fun _ _ => step_next_prog, runFuel_state_prog⟩

/-- Settles O20: each instruction is an effect on the state before it, and a register operand resolves in that same state. -/
theorem sourceIsReadBeforeItIsWritten : Obligations.SourceIsReadBeforeItIsWritten := fun s =>
  ⟨(exec_adv (.reg .a) s).trans (withCombo_reg .a s _), (exec_bst (.reg .b) s).trans (withCombo_reg .b s _),
    (exec_bdv (.reg .b) s).trans (withCombo_reg .b s _), (exec_cdv (.reg .c) s).trans (withCombo_reg .c s _),
    fun raw => exec_bxc raw s⟩

end Sys2Proof.Machine

/-! PROOFS. What executing one instruction leaves in every field, as one equation (10_state.md), with what follows from it: the two
invariants, the frames and what an instruction depends on; the obligations O37, O38, O21, O22, O24 and O25. -/

namespace Sys2Proof.Machine

/-! ### One instruction as one equation -/

/-- The value an instruction writes to the register that `writes` names: none if it names none or the operand has no value. -/
def writtenValue (i : Instr) (s : State) : Option Nat :=
  match i with
  | .adv k => (comboValue k s).map (dv s)
  | .bxl l => some (xorNat s.b (literalValue l))
  | .bst k => (comboValue k s).map mod8
  | .jnz _ => none
  | .bxc _ => some (xorNat s.b s.c)
  | .out _ => none
  | .bdv k => (comboValue k s).map (dv s)
  | .cdv k => (comboValue k s).map (dv s)

/-- A register after an instruction: the written value if the instruction writes one there, else the value before. -/
def regAfter (i : Instr) (s : State) (r : Reg) : Nat :=
  if writes i = some r then (writtenValue i s).getD (readReg s r) else readReg s r

/-- The IP after an instruction: JNZ's target if taken, else past the pair; the raise keeps it (R26, R85, R121). -/
def ipAfter (i : Instr) (s : State) : Nat :=
  if i.legal = true then if opcodeOf i = 3#3 ∧ s.a ≠ 0 then (rawOf i).toNat else s.ip + 2 else s.ip

/-- The buffer with the digit of one step at its end, if there is one (R27, R116). -/
def appendDigit (out : List Digit) (digit : Option Digit) : List Digit :=
  digit.elim out fun d => out ++ [d]

/-- The state after an instruction, field by field; the program is never written (R43). -/
def afterExec (i : Instr) (s : State) : State :=
  { a := regAfter i s .a, b := regAfter i s .b, c := regAfter i s .c, ip := ipAfter i s,
    out := appendDigit s.out (digitAppended i s),
    status := if i.legal = true then s.status else .error .invalidOperand, prog := s.prog }

/-- JNZ writes no register and appends nothing, so the equation is about the IP alone (R110). -/
theorem exec_jnz_eq_afterExec (l : Word) (s : State) : exec (.jnz l) s = .next (afterExec (.jnz l) s) := by
  have hip : ipAfter (.jnz l) s = if s.a ≠ 0 then l.toNat else s.ip + 2 := by
    simp [ipAfter, Instr.legal, opcodeOf, rawOf]
  rw [exec_jnz, ← hip]
  rfl

/-- Executing any instruction answers that state (R86); a combo operand is a literal, a register or the raise. -/
theorem exec_eq_afterExec (i : Instr) (s : State) : exec i s = .next (afterExec i s) := by
  cases i with
  | adv k => cases k <;> rfl
  | bxl l => rfl
  | bst k => cases k <;> rfl
  | jnz l => exact exec_jnz_eq_afterExec l s
  | bxc l => rfl
  | out k => cases k <;> rfl
  | bdv k => cases k <;> rfl
  | cdv k => cases k <;> rfl

theorem eq_afterExec_of_exec {i : Instr} {s t : State} (h : exec i s = .next t) : t = afterExec i s :=
  Host.Outcome.next.inj (h.symm.trans (exec_eq_afterExec i s))

@[simp] theorem readReg_afterExec (i : Instr) (s : State) (r : Reg) : readReg (afterExec i s) r = regAfter i s r := by
  cases r <;> rfl

theorem appendDigit_eq (out : List Digit) (digit : Option Digit) : appendDigit out digit = out ++ digit.toList := by
  cases digit <;> simp [appendDigit]

/-- Two states are equal when every register and every other field is. -/
theorem State.eq_of_regs {s t : State} (hregs : ∀ r, readReg s r = readReg t r) (hip : s.ip = t.ip)
    (hout : s.out = t.out) (hstatus : s.status = t.status) (hprog : s.prog = t.prog) : s = t :=
  State.eq_of_fields (hregs .a) (hregs .b) (hregs .c) hip hout hstatus hprog

/-! ### Which register an instruction writes -/

/-- An illegal instruction has no value to write (R64). -/
theorem writtenValue_of_illegal {i : Instr} (h : i.legal = false) (s : State) : writtenValue i s = none := by
  have hnone {k : Combo} (hk : k.legal = false) : comboValue k s = none := (comboValue_eq_none_iff k s).2 hk
  cases i with
  | adv k => exact Option.map_eq_none_iff.2 (hnone h)
  | bst k => exact Option.map_eq_none_iff.2 (hnone h)
  | bdv k => exact Option.map_eq_none_iff.2 (hnone h)
  | cdv k => exact Option.map_eq_none_iff.2 (hnone h)
  | bxl l => cases h
  | bxc l => cases h
  | jnz l => rfl
  | out k => rfl

/-- A legal instruction that names a register has a value to write there (R22). -/
theorem exists_writtenValue {i : Instr} {r : Reg} (hw : writes i = some r) (hl : i.legal = true) (s : State) :
    ∃ v, writtenValue i s = some v := by
  have hsome {k : Combo} (hk : k.legal = true) (f : Nat → Nat) : ∃ v, (comboValue k s).map f = some v := by
    cases hv : comboValue k s with
    | some v => exact ⟨f v, rfl⟩
    | none => simp [(comboValue_eq_none_iff k s).1 hv] at hk
  cases i with
  | adv k => exact hsome hl (dv s)
  | bst k => exact hsome hl mod8
  | bdv k => exact hsome hl (dv s)
  | cdv k => exact hsome hl (dv s)
  | bxl l => exact ⟨_, rfl⟩
  | bxc l => exact ⟨_, rfl⟩
  | jnz l => cases hw
  | out k => cases hw

/-- A register keeps its value unless a legal instruction names it (R22, R121). -/
theorem regAfter_of_not_written {i : Instr} {r : Reg} (h : ¬(writes i = some r ∧ i.legal = true)) (s : State) :
    regAfter i s r = readReg s r := by
  unfold regAfter
  split
  next hw =>
    have hill : i.legal = false := Bool.eq_false_of_not_eq_true fun hl => h ⟨hw, hl⟩
    rw [writtenValue_of_illegal hill s, Option.getD_none]
  next => rfl

/-- A register that a legal instruction names holds the written value (R22). -/
theorem regAfter_of_written {i : Instr} {r : Reg} {s : State} {v : Nat} (hw : writes i = some r)
    (hv : writtenValue i s = some v) : regAfter i s r = v := by
  rw [regAfter, if_pos hw, hv, Option.getD_some]

/-- Only ADV writes A (R22). -/
theorem writes_ne_a {i : Instr} (hadv : ∀ k, i ≠ .adv k) : writes i ≠ some .a := by
  cases i with
  | adv k => exact absurd rfl (hadv k)
  | _ => simp [writes]

/-- Only BXL, BST, BXC and BDV write B (R22). -/
theorem writes_ne_b {i : Instr} (hbxl : ∀ l, i ≠ .bxl l) (hbst : ∀ k, i ≠ .bst k) (hbxc : ∀ l, i ≠ .bxc l)
    (hbdv : ∀ k, i ≠ .bdv k) : writes i ≠ some .b := by
  cases i with
  | bxl l => exact absurd rfl (hbxl l)
  | bst k => exact absurd rfl (hbst k)
  | bxc l => exact absurd rfl (hbxc l)
  | bdv k => exact absurd rfl (hbdv k)
  | _ => simp [writes]

/-- Only CDV writes C (R22). -/
theorem writes_ne_c {i : Instr} (hcdv : ∀ k, i ≠ .cdv k) : writes i ≠ some .c := by
  cases i with
  | cdv k => exact absurd rfl (hcdv k)
  | _ => simp [writes]

/-- Only OUT appends a digit (R116). -/
theorem digitAppended_of_not_out {i : Instr} (hout : ∀ k, i ≠ .out k) (s : State) : digitAppended i s = none := by
  cases i with
  | out k => exact absurd rfl (hout k)
  | _ => rfl

/-! ### What an instruction depends on -/

/-- The two states hold the same value in every register the instruction reads (R22). -/
def AgreeOnReads (i : Instr) (s s' : State) : Prop :=
  ∀ q, reads i q = true → readReg s' q = readReg s q

/-- A combo operand's value depends on the register it selects alone (R22, R62). -/
theorem comboValue_congr {k : Combo} {s s' : State} (h : ∀ q, comboReads k q = true → readReg s' q = readReg s q) :
    comboValue k s' = comboValue k s := by
  cases k with
  | lit n => rfl
  | reg r => exact congrArg some (h r (by simp [comboReads]))
  | invalid => rfl

/-- A quotient depends on A and on its shift count (R90). -/
theorem quotient_congr {k : Combo} {s s' : State}
    (h : ∀ q, (q == .a || comboReads k q) = true → readReg s' q = readReg s q) :
    (comboValue k s').map (dv s') = (comboValue k s).map (dv s) := by
  have ha : s'.a = s.a := h .a rfl
  have hdv : dv s' = dv s := funext fun v => by rw [dv_eq_div, dv_eq_div, ha]
  rw [hdv, comboValue_congr fun q hq => h q (by simp [hq])]

/-- The written value depends on the registers the instruction reads (R22). -/
theorem writtenValue_congr {i : Instr} {s s' : State} (h : AgreeOnReads i s s') :
    writtenValue i s' = writtenValue i s := by
  cases i with
  | adv k => exact quotient_congr h
  | bdv k => exact quotient_congr h
  | cdv k => exact quotient_congr h
  | bst k => exact congrArg (Option.map mod8) (comboValue_congr h)
  | bxl l =>
    have hb : s'.b = s.b := h .b rfl
    simp [writtenValue, hb]
  | bxc l =>
    have hb : s'.b = s.b := h .b rfl
    have hc : s'.c = s.c := h .c rfl
    simp [writtenValue, hb, hc]
  | jnz l => rfl
  | out k => rfl

/-- The appended digit depends on the registers the instruction reads (R22, R116). -/
theorem digitAppended_congr {i : Instr} {s s' : State} (h : AgreeOnReads i s s') :
    digitAppended i s' = digitAppended i s := by
  cases i with
  | out k => exact congrArg (Option.map digitOf) (comboValue_congr h)
  | _ => rfl

/-- The next IP depends on the IP, and for JNZ, which reads it, on A (R22, R110). -/
theorem ipAfter_congr {i : Instr} {s s' : State} (h : AgreeOnReads i s s') (hip : s'.ip = s.ip) :
    ipAfter i s' = ipAfter i s := by
  cases i with
  | jnz l =>
    have ha : s'.a = s.a := h .a rfl
    simp [ipAfter, hip, ha]
  | _ => simp [ipAfter, hip, opcodeOf]

/-- A register that is overwritten, or that held the same value, is the same after the instruction. -/
theorem regAfter_congr {i : Instr} {r : Reg} {s s' : State} (h : AgreeOnReads i s s')
    (hr : (writes i = some r ∧ i.legal = true) ∨ readReg s' r = readReg s r) : regAfter i s' r = regAfter i s r := by
  obtain ⟨hw, hl⟩ | hr := hr
  · obtain ⟨v, hv⟩ := exists_writtenValue hw hl s
    rw [regAfter_of_written hw hv, regAfter_of_written hw ((writtenValue_congr h).trans hv)]
  · rw [regAfter, regAfter, writtenValue_congr h, hr]

/-- Replacing the program and the buffer replaces them in the state after an instruction, which reads neither. -/
theorem afterExec_with_prog_out (i : Instr) (s : State) (q : List Word) (o : List Digit) :
    afterExec i { s with prog := q, out := o } =
      { afterExec i s with prog := q, out := appendDigit o (digitAppended i s) } := by
  have hregs (r : Reg) : readReg { s with prog := q, out := o } r = readReg s r := by cases r <;> rfl
  have hagree : AgreeOnReads i s { s with prog := q, out := o } := fun r _ => hregs r
  have hreg (r : Reg) := regAfter_congr hagree (.inr (hregs r))
  exact State.eq_of_fields (hreg .a) (hreg .b) (hreg .c) (ipAfter_congr hagree rfl)
    (congrArg (appendDigit o) (digitAppended_congr hagree)) rfl rfl

/-- Writing a register that the instruction does not read commutes with the instruction, unless it overwrites the register (R22). -/
theorem afterExec_writeReg_of_unread {i : Instr} {r : Reg} (hread : reads i r = false) (v : Nat) (s : State) :
    afterExec i (writeReg r v s) =
      if writes i = some r ∧ i.legal = true then afterExec i s else writeReg r v (afterExec i s) := by
  have hagree : AgreeOnReads i s (writeReg r v s) := fun q hq =>
    readReg_writeReg_other (by rintro rfl; simp [hread] at hq) v s
  have hip : ipAfter i (writeReg r v s) = ipAfter i s := ipAfter_congr hagree (by simp)
  have hother {q : Reg} (hq : q ≠ r) : regAfter i (writeReg r v s) q = regAfter i s q :=
    regAfter_congr hagree (.inr (readReg_writeReg_other hq v s))
  split
  next hw =>
    refine State.eq_of_regs (fun q => ?_) hip ?_ ?_ ?_
    · by_cases hq : q = r
      · subst hq
        simpa using regAfter_congr hagree (.inl hw)
      · simpa using hother hq
    all_goals simp [afterExec, digitAppended_congr hagree]
  next hw =>
    refine State.eq_of_regs (fun q => ?_) ?_ ?_ ?_ ?_
    · by_cases hq : q = r
      · subst hq
        simpa using regAfter_of_not_written hw (writeReg q v s)
      · rw [readReg_writeReg_other hq, readReg_afterExec, readReg_afterExec, hother hq]
    · exact hip.trans (writeReg_ip r v (afterExec i s)).symm
    all_goals simp [afterExec, digitAppended_congr hagree]

/-! ### The width of the registers -/

/-- A width that holds a value holds every smaller one (R21). -/
theorem holds_of_le {width : RegWidth} {u v : Nat} (hle : u ≤ v) (h : width.holds v = true) : width.holds u = true := by
  cases width with
  | unbounded => rfl
  | bits w => exact decide_eq_true (lt_of_le_of_lt hle (of_decide_eq_true h))

/-- Every admitted width holds a 3-bit value (R5, R23). -/
theorem holds_of_lt_eight {width : RegWidth} (hadm : width.admitted = true) {v : Nat} (hv : v < 8) :
    width.holds v = true := by
  cases width with
  | unbounded => rfl
  | bits w =>
    have hw : 2 ^ 3 ≤ 2 ^ w := Nat.pow_le_pow_right (by omega) (of_decide_eq_true hadm)
    exact decide_eq_true (by omega)

/-- XOR sets no bit above the width of its operands (R23, R103). -/
theorem holds_xorNat {width : RegWidth} {u v : Nat} (hu : width.holds u = true) (hv : width.holds v = true) :
    width.holds (xorNat u v) = true := by
  cases width with
  | unbounded => rfl
  | bits w => exact decide_eq_true (Nat.xor_lt_two_pow (of_decide_eq_true hu) (of_decide_eq_true hv))

/-- The quotient of a division fits a width that A fits (R23, R94). -/
theorem holds_of_quotient {width : RegWidth} {k : Combo} {s : State} {v : Nat} (ha : width.holds s.a = true)
    (h : (comboValue k s).map (dv s) = some v) : width.holds v = true := by
  obtain ⟨n, -, rfl⟩ := Option.map_eq_some_iff.1 h
  exact holds_of_le (by rw [dv_eq_div]; exact Nat.div_le_self _ _) ha

/-- Whatever an instruction writes fits an admitted width that the registers fit (R23). -/
theorem holds_writtenValue {width : RegWidth} {i : Instr} {s : State} {v : Nat} (hadm : width.admitted = true)
    (hfit : RegsFit width s) (h : writtenValue i s = some v) : width.holds v = true := by
  cases i with
  | adv k => exact holds_of_quotient (hfit .a) h
  | bdv k => exact holds_of_quotient (hfit .a) h
  | cdv k => exact holds_of_quotient (hfit .a) h
  | bst k =>
    obtain ⟨n, -, rfl⟩ := Option.map_eq_some_iff.1 h
    exact holds_of_lt_eight hadm (Nat.mod_lt n (by omega))
  | bxl l =>
    obtain rfl := Option.some.inj h
    exact holds_xorNat (hfit .b) (holds_of_lt_eight hadm l.isLt)
  | bxc l =>
    obtain rfl := Option.some.inj h
    exact holds_xorNat (hfit .b) (hfit .c)
  | jnz l => cases h
  | out k => cases h

/-- An instruction keeps every register within an admitted width (R23). -/
theorem regsFit_afterExec {width : RegWidth} {s : State} (hadm : width.admitted = true) (hfit : RegsFit width s)
    (i : Instr) : RegsFit width (afterExec i s) := by
  intro r
  rw [readReg_afterExec]
  by_cases hw : writes i = some r ∧ i.legal = true
  · obtain ⟨v, hv⟩ := exists_writtenValue hw.1 hw.2 s
    rw [regAfter_of_written hw.1 hv]
    exact holds_writtenValue hadm hfit hv
  · rw [regAfter_of_not_written hw]
    exact hfit r

/-! ### One step -/

/-- A step that answers a next state halts without a pair, or leaves the state after the instruction it fetched (R84). -/
theorem step_next_eq {s t : State} (h : step s = .next t) :
    s.status = .running ∧
      ((fetchPair s = none ∧ t = halt s) ∨
        ∃ op raw, fetchPair s = some (op, raw) ∧ t = afterExec (decode op raw) s) := by
  obtain ⟨hrunning, hhalt | ⟨op, raw, hf, hexec⟩⟩ := step_next_cases h
  · exact ⟨hrunning, .inl hhalt⟩
  · exact ⟨hrunning, .inr ⟨op, raw, hf, eq_afterExec_of_exec hexec⟩⟩

/-- A RUNNING step with a pair to fetch leaves the state after the decoded instruction (R84). -/
theorem step_eq_afterExec {s : State} {op raw : Word} (h : s.status = .running) (hf : fetchPair s = some (op, raw)) :
    step s = .next (afterExec (decode op raw) s) :=
  (step_of_fetch_some h hf).trans (exec_eq_afterExec _ s)

/-- The digit the port emits is OUT's: opcode 5, and a raw word that resolves to a value (R115, R116). -/
theorem digitAppended_decode_eq_some_iff (op raw : Word) (s : State) (d : Digit) :
    digitAppended (decode op raw) s = some d ↔
      op = 5#3 ∧ ∃ v, comboValue (comboOfWord raw) s = some v ∧ d.toNat = v % 8 := by
  have hdigit (v : Nat) : digitOf v = d ↔ d.toNat = v % 8 := by
    rw [← digitOf_toNat, BitVec.toNat_inj, eq_comm]
  by_cases hop : op = 5#3
  · subst hop
    simp only [true_and, ← hdigit]
    exact Option.map_eq_some_iff
  · have hnone : digitAppended (decode op raw) s = none := digitAppended_of_not_out (fun k hk => hop (by
      rw [← opcodeOf_decode op raw, hk, opcodeOf])) s
    simp [hnone, hop]

/-- A step with any other buffer does the same to the state and appends the emitted digit to that buffer (R27, R116). -/
theorem step_with_out {s t : State} (h : step s = .next t) (o : List Digit) :
    step { s with out := o } = .next { t with out := o ++ (emitted s).toList } := by
  obtain ⟨hrunning, ⟨hf, rfl⟩ | ⟨op, raw, hf, rfl⟩⟩ := step_next_eq h
  · rw [emitted_of_fetch_none hf, Option.toList_none, List.append_nil]
    exact step_of_fetch_none hrunning hf
  · rw [emitted_of_fetch_some hrunning hf, ← appendDigit_eq]
    exact (step_eq_afterExec (s := { s with out := o }) hrunning hf).trans
      (congrArg Host.Outcome.next (afterExec_with_prog_out (decode op raw) s s.prog o))

/-- A step's buffer is the one before with the emitted digit, if any, at its end (R28, R116). -/
theorem step_next_out {s t : State} (h : step s = .next t) : t.out = s.out ++ (emitted s).toList :=
  congrArg State.out (Host.Outcome.next.inj (h.symm.trans (step_with_out h s.out)))

/-! ### The obligations -/

/-- Settles O37: a halt leaves the registers, and what an instruction writes is a quotient of A, a remainder modulo 8, or an XOR of
values that fit. -/
theorem everyStepKeepsRegisterWidth : Obligations.EveryStepKeepsRegisterWidth := by
  intro width s t hadm hfit h
  obtain ⟨-, ⟨-, rfl⟩ | ⟨op, raw, -, rfl⟩⟩ := step_next_eq h
  · simpa only [RegsFit, readReg_halt] using hfit
  · exact regsFit_afterExec hadm hfit _

/-- Settles O38: the step changes the IP only when a whole pair stands there, and then to a 3-bit target or past that pair. -/
theorem everyStepKeepsIpInRange : Obligations.EveryStepKeepsIpInRange := by
  intro s t hin h
  have hlen : progLen t = progLen s := congrArg List.length (step_next_prog h)
  show t.ip ≤ max (progLen t) 7
  rw [hlen]
  obtain ⟨hnext, hend⟩ := ipAfterAStep s t h
  by_cases hrunning : t.status = .running
  · obtain ⟨op, raw, -, hraw, hip⟩ := hnext hrunning
    have hpair : s.ip + 1 < progLen s := lt_of_memRead hraw
    have htarget : raw.toNat < 8 := raw.isLt
    rw [hip]
    split <;> omega
  · exact (hend hrunning).trans_le hin

/-- Settles O21: a register or the buffer changes only where the write table or OUT says so, and the raise changes the status alone. -/
theorem frameOfEveryInstruction : Obligations.FrameOfEveryInstruction := by
  intro i s t h
  have hprog : t.prog = s.prog := exec_next_prog h
  obtain rfl := eq_afterExec_of_exec h
  have hkeep {r : Reg} (hw : writes i ≠ some r) : regAfter i s r = readReg s r :=
    regAfter_of_not_written (fun hw' => hw hw'.1) s
  refine ⟨fun hadv => hkeep (writes_ne_a hadv), fun hbxl hbst hbxc hbdv => hkeep (writes_ne_b hbxl hbst hbxc hbdv),
    fun hcdv => hkeep (writes_ne_c hcdv), fun hout => ?_, fun hl => if_pos hl, fun hill => ?_, fun j => ?_⟩
  · exact congrArg (appendDigit s.out) (digitAppended_of_not_out hout s)
  · rw [show afterExec i s = raiseError .invalidOperand s from
      (eq_afterExec_of_exec (exec_of_illegal hill s)).symm]
    simp
  · rw [memRead, memRead, hprog]

/-- Settles O22: an instruction depends on the registers it reads alone, and the changed one stays unless it is overwritten. -/
theorem unreadRegisterHasNoInfluence : Obligations.UnreadRegisterHasNoInfluence := by
  intro i r v s t hread h
  obtain rfl := eq_afterExec_of_exec h
  rw [exec_eq_afterExec, afterExec_writeReg_of_unread hread]

/-- Settles O24: with the same fetch a step halts in both, or executes the same instruction, which reads no program. -/
theorem stepReadsOnlyTheFetchedPair : Obligations.StepReadsOnlyTheFetchedPair := by
  intro s t q hfetch h
  obtain ⟨hrunning, ⟨hf, rfl⟩ | ⟨op, raw, hf, rfl⟩⟩ := step_next_eq h
  · exact step_of_fetch_none hrunning (hfetch.trans hf)
  · exact (step_eq_afterExec (s := { s with prog := q }) hrunning (hfetch.trans hf)).trans
      (congrArg Host.Outcome.next (afterExec_with_prog_out (decode op raw) s q s.out))

/-- Settles O25: the buffer only gains the emitted digit, and the port emits where an OUT with a value is fetched. -/
theorem stepAppendsTheEmittedDigitAndReadsNoOutput : Obligations.StepAppendsTheEmittedDigitAndReadsNoOutput := by
  refine fun s t h => ⟨step_next_out h, step_with_out h, fun d => ?_⟩
  have hrunning := (step_next_cases h).1
  cases hf : fetchPair s with
  | none =>
    rw [emitted_of_fetch_none hf]
    refine ⟨nofun, ?_⟩
    rintro ⟨raw, v, hop, hraw, -⟩
    cases hf.symm.trans ((fetchPair_eq_some_iff s 5#3 raw).2 ⟨hop, hraw⟩)
  | some pair =>
    obtain ⟨op, raw⟩ := pair
    obtain ⟨hop, hraw⟩ := (fetchPair_eq_some_iff s op raw).1 hf
    rw [emitted_of_fetch_some hrunning hf, digitAppended_decode_eq_some_iff]
    simp [hop, hraw]

end Sys2Proof.Machine

/-! PROOFS. Words, listings and names of instructions (30_encoding.md): the 6-bit view, whole listings, the assembler names, and the
obligations O5, O4, O6, O49, O2 and O3. -/

namespace Sys2Proof.Machine

/-! ### The 6-bit view of a pair -/

/-- The table's numbering keeps both words of a pair (R57). -/
theorem tableWords_instr6 (op raw : Word) : tableWords 8 (instr6 op raw) = some (op, raw) := by
  have hop : op.toNat < 8 := op.isLt
  have hraw : raw.toNat < 8 := raw.isLt
  have hdiv : (op.toNat * 8 + raw.toNat) / 8 = op.toNat := by omega
  have hmod : (op.toNat * 8 + raw.toNat) % 8 = raw.toNat := by omega
  have hlt : op.toNat * 8 + raw.toNat < 2 ^ 8 ∧ op.toNat * 8 + raw.toNat < 64 := by omega
  rw [tableWords, instr6, if_pos hlt, hdiv, hmod]
  simp

/-- A pair decodes from its number as from its two words (R57). -/
theorem decodeTableWord_instr6 (op raw : Word) : decodeTableWord 8 (instr6 op raw) = some (decode op raw) := by
  rw [decodeTableWord, tableWords_instr6]

/-! ### Whole listings -/

theorem decodeListing_encodeListing (is : List Instr) : decodeListing (encodeListing is) = (is, []) := by
  induction is with
  | nil => rfl
  | cons i is ih => rw [encodeListing, decodeListing, ih, decode_opcodeOf_rawOf]

theorem length_encodeListing (is : List Instr) : (encodeListing is).length = 2 * is.length := by
  induction is with
  | nil => rfl
  | cons i is ih =>
    simp only [encodeListing, List.length_cons, ih]
    omega

/-- The instructions read from a listing, encoded again, and the words left over are the listing (R56, R79). -/
theorem encodeListing_decodeListing_append (ws : List Word) :
    encodeListing (decodeListing ws).1 ++ (decodeListing ws).2 = ws := by
  induction ws using decodeListing.induct with
  | case1 => rfl
  | case2 op => rfl
  | case3 op raw rest ih => simp [decodeListing, encodeListing, ih]

/-- One word is left over of a listing of odd length, none of an even one (R79). -/
theorem length_decodeListing_snd (ws : List Word) : (decodeListing ws).2.length = ws.length % 2 := by
  induction ws using decodeListing.induct with
  | case1 => rfl
  | case2 op => rfl
  | case3 op raw rest ih =>
    rw [decodeListing, ih, List.length_cons, List.length_cons]
    omega

/-- The `j`-th instruction's two words stand at `2 * j` and `2 * j + 1` of the listing (R68). -/
theorem getElem?_encodeListing {is : List Instr} {j : Nat} {i : Instr} (h : is[j]? = some i) :
    (encodeListing is)[2 * j]? = some (opcodeOf i) ∧ (encodeListing is)[2 * j + 1]? = some (rawOf i) := by
  induction is generalizing j with
  | nil => simp at h
  | cons k is ih =>
    cases j with
    | zero =>
      obtain rfl : k = i := by simpa using h
      exact ⟨rfl, rfl⟩
    | succ j => exact ih (by simpa using h)

/-! ### Mnemonics and raw operands -/

/-- The mnemonic and the raw operand of a decoded pair give back the name and the number it was assembled from (R69). -/
theorem names_of_assembled {name : String} {raw : Nat} {op : Word} {i : Instr}
    (h : some (decode op (BitVec.ofNat 3 raw)) = some i) (hraw : raw < 8)
    (hname : name = mnemonic (decode op (BitVec.ofNat 3 raw))) :
    name = mnemonic i ∧ raw = (rawOf i).toNat := by
  obtain rfl := Option.some.inj h
  rw [rawOf_decode, BitVec.toNat_ofNat, Nat.mod_eq_of_lt hraw]
  exact ⟨hname, rfl⟩

/-- Assembling a mnemonic looks up its opcode, for a number that is a word (R69, R71). -/
theorem assemble_mnemonic (i : Instr) (raw : Word) :
    assemble (mnemonic i) raw.toNat = some (decode (opcodeOf i) raw) := by
  have hraw : raw.toNat < 8 := raw.isLt
  cases i <;> simp [assemble, mnemonic, opcodeOf, hraw]

/-! ### The obligations -/

/-- Settles O5: by induction over the list of instructions, and over the listing by pairs. -/
theorem listingRoundTrip : Obligations.ListingRoundTrip :=
  ⟨fun is => ⟨decodeListing_encodeListing is, length_encodeListing is⟩,
    fun ws => ⟨encodeListing_decodeListing_append ws, length_decodeListing_snd ws⟩⟩

/-- Settles O4: the decoder gives an instruction back from its words, and the table's numbering keeps the words. -/
theorem decodeUndoesEncode : Obligations.DecodeUndoesEncode := fun i =>
  ⟨decode_opcodeOf_rawOf i, (decodeTableWord_instr6 _ _).trans (congrArg some (decode_opcodeOf_rawOf i))⟩

/-- Settles O6: the fetch at `2 * j` finds the two words of the `j`-th instruction, which decode to it. -/
theorem evenIpRunsTheListedInstruction : Obligations.EvenIpRunsTheListedInstruction := by
  intro is j i s hi hprog hip hrunning
  have hfetch : fetchPair s = some (opcodeOf i, rawOf i) :=
    (fetchPair_eq_some_iff s _ _).2 (by simpa only [memRead, hprog, hip] using getElem?_encodeListing hi)
  rw [step_of_fetch_some hrunning hfetch, decode_opcodeOf_rawOf]

/-- Settles O49: assembling looks the mnemonic's opcode up, and each of the eight names it knows is that opcode's mnemonic. -/
theorem assemblyNamesTheInstruction : Obligations.AssemblyNamesTheInstruction := by
  refine ⟨fun i => (assemble_mnemonic i (rawOf i)).trans (congrArg some (decode_opcodeOf_rawOf i)), ?_⟩
  intro name raw i h
  unfold assemble at h
  split_ifs at h with hraw hadv hbxl hbst hjnz hbxc hout hbdv hcdv
  · exact names_of_assembled h hraw hadv
  · exact names_of_assembled h hraw hbxl
  · exact names_of_assembled h hraw hbst
  · exact names_of_assembled h hraw hjnz
  · exact names_of_assembled h hraw hbxc
  · exact names_of_assembled h hraw hout
  · exact names_of_assembled h hraw hbdv
  · exact names_of_assembled h hraw hcdv

/-- Settles O2: each number is the 6-bit view of the opcode and the operand written beside it. -/
theorem specPairsDecodeAsWritten : Obligations.SpecPairsDecodeAsWritten :=
  ⟨decodeTableWord_instr6 0#3 1#3, decodeTableWord_instr6 5#3 4#3, decodeTableWord_instr6 3#3 0#3,
    decodeTableWord_instr6 2#3 4#3, decodeTableWord_instr6 1#3 3#3, decodeTableWord_instr6 7#3 5#3,
    decodeTableWord_instr6 6#3 6#3, decodeTableWord_instr6 4#3 7#3, decodeTableWord_instr6 0#3 7#3⟩

/-- Settles O3: both words can be read back from the decoded instruction. -/
theorem encodeUndoesDecode : Obligations.EncodeUndoesDecode := fun op raw =>
  Prod.ext (opcodeOf_decode op raw) (rawOf_decode op raw)

end Sys2Proof.Machine

/-! PROOFS. One step of the cycle (40_execution_cycle.md, 41_division.md, 43_control.md, 60_exceptions.md): the quotient for every
shift, dispatch for every pair, precise faults, taken jumps, and the obligations O14, O31, O35, O36, O28 and O34. -/

namespace Sys2Proof.Machine

/-! ### The quotient -/

/-- Dividing naturals rounds toward zero and down alike (C4). -/
theorem natCast_div_two_pow_eq_tdiv (n k : Nat) : ((n / 2 ^ k : Nat) : Int) = Int.tdiv (n : Int) (2 ^ k) := by
  rw [Int.ofNat_tdiv, Nat.cast_pow, Nat.cast_ofNat]

/-- A quotient is 0 exactly when the power is above the dividend (R94). -/
theorem div_two_pow_eq_zero_iff (n k : Nat) : n / 2 ^ k = 0 ↔ n < 2 ^ k :=
  Nat.div_eq_zero_iff_lt (Nat.two_pow_pos k)

/-! ### A step outside RUNNING, and a faulting step -/

theorem step_of_halted {s : State} (h : s.status = .halted) : step s = .fault .runHalted := by
  simp only [step, h]

theorem step_of_error {s : State} {kind : ErrorKind} (h : s.status = .error kind) :
    step s = .fault (.runFailed kind) := by
  simp only [step, h]

/-- Raising the error leaves IP and the program, so the pair that raised it is still addressed (R123). -/
theorem fetchPair_raiseError (kind : ErrorKind) (s : State) : fetchPair (raiseError kind s) = fetchPair s := rfl

/-- Every RUNNING state has a next state (R86). -/
theorem exists_step_next {s : State} (h : s.status = .running) : ∃ t, step s = .next t := by
  obtain ⟨t, ht, -⟩ := running_step_cases h
  exact ⟨t, ht⟩

/-! ### The obligations -/

/-- Settles O14: each corner case is a fact of natural division, whatever the size of the shift count. -/
theorem quotientIsFloorForEveryShift : Obligations.QuotientIsFloorForEveryShift := by
  intro s k
  refine ⟨dv_eq_div s k, ?_⟩
  simp only [dv_eq_div]
  refine ⟨natCast_div_two_pow_eq_tdiv s.a k, Nat.div_le_self _ _, by simp, div_two_pow_self s.a, fun ha => ?_,
    div_two_pow_eq_zero_iff s.a k⟩
  rw [ha, Nat.zero_div]

/-- Settles O31: an illegal pair raises, and any other completes with the IP at the taken target or past the pair. -/
theorem everyPairExecutes : Obligations.EveryPairExecutes := by
  intro op raw s
  cases hl : (decode op raw).legal with
  | false => exact ⟨_, exec_of_illegal hl s, .inl ⟨(decode_legal_eq_false_iff op raw).1 hl, rfl⟩⟩
  | true =>
    have hleg : ¬IllegalPair op raw := by simp [← decode_legal_eq_false_iff, hl]
    obtain ⟨t, ht, hstatus, hip⟩ := exec_of_legal hl s
    rw [opcodeOf_decode, rawOf_decode] at hip
    refine ⟨t, ht, .inr ⟨hleg, hstatus, ?_⟩⟩
    split at hip
    next hjump => exact .inr ⟨hjump.1, hjump.2, hip⟩
    next => exact .inl hip

/-- Settles O35: the raise is all a faulting step does, so the illegal pair it fetched is still at IP. -/
theorem faultIsPrecise : Obligations.FaultIsPrecise := by
  intro s t h ht
  obtain ⟨op, raw, hf, ⟨rfl, hop⟩, rfl⟩ := illegalPair_of_step_error h ht
  exact ⟨rfl, op, (fetchPair_raiseError _ s).trans hf, hop⟩

/-- Settles O36: the taken jump only moves the IP, and the next step is an ordinary one, with or without a pair at the target. -/
theorem takenJumpRunsOrHaltsAtItsTarget : Obligations.TakenJumpRunsOrHaltsAtItsTarget := by
  intro s raw hrunning ha hf
  refine ⟨_, (step_of_fetch_some hrunning hf).trans (exec_jnz_taken ha raw), rfl,
    step_eq_halt (s := { s with ip := raw.toNat }) hrunning, ?_⟩
  exact fun op' raw' hop hraw => step_of_fetch_some hrunning ((fetchPair_eq_some_iff _ op' raw').2 ⟨hop, hraw⟩)

/-- Settles O28: the two words at IP are the fetched pair. -/
theorem stepRunsTheDecodedInstruction : Obligations.StepRunsTheDecodedInstruction :=
  fun s op raw hrunning hop hraw => step_of_fetch_some hrunning ((fetchPair_eq_some_iff s op raw).2 ⟨hop, hraw⟩)

/-- Settles O34: the status decides the outcome: a next state from RUNNING, and the stop named after it from the other two. -/
theorem stepAfterTheEndIsNamed : Obligations.StepAfterTheEndIsNamed := by
  intro s
  cases hs : s.status with
  | running =>
    obtain ⟨t, ht⟩ := exists_step_next hs
    simp [ht]
  | halted => simp [step_of_halted hs]
  | error kind => simp [step_of_error hs]

end Sys2Proof.Machine

/-! PROOFS. Runs under fuel (40_execution_cycle.md sections 1 and 5): how a run ends, what fuel does, and the obligations O26, O40, O41,
O42 and O48. -/

namespace Sys2Proof.Machine

/-! ### The verdict -/

/-- The induction over the fuel of a run with its verdict, once: a run that is over ends where it is, one without fuel goes on, and the
verdict after a step is that of the rest. Every RUNNING state has a next state, so there is no fourth case (R75, R86, R88). -/
theorem verdict_induction {P : Nat → State → Verdict → Prop}
    (ended : ∀ fuel s, s.status ≠ .running → P fuel s (.ended s))
    (noFuel : ∀ s, s.status = .running → P 0 s (.outOfFuel s))
    (cons : ∀ fuel s t, step s = .next t → P fuel t (runFuel fuel t) → P (fuel + 1) s (runFuel fuel t))
    (fuel : Nat) (s : State) : P fuel s (runFuel fuel s) := by
  induction fuel generalizing s with
  | zero =>
    by_cases hs : s.status = .running
    · exact runFuel_zero hs ▸ noFuel s hs
    · exact runFuel_of_over hs 0 ▸ ended 0 s hs
  | succ n ih =>
    by_cases hs : s.status = .running
    · obtain ⟨t, ht⟩ := exists_step_next hs
      exact runFuel_succ ht n ▸ cons n s t ht (ih t)
    · exact runFuel_of_over hs (n + 1) ▸ ended (n + 1) s hs

/-- No run meets a RUNNING state without a next state (R86). -/
theorem runFuel_ne_noStep (fuel : Nat) (s t : State) : runFuel fuel s ≠ .noStep t :=
  verdict_induction (P := fun _ _ verdict => verdict ≠ .noStep t) (fun _ _ _ => nofun) (fun _ _ => nofun)
    (fun _ _ _ _ hrest => hrest) fuel s

/-- Out of fuel means that every step had a next state, up to one that is still RUNNING (R88, D13). -/
theorem running_of_outOfFuel (fuel : Nat) (s t : State) :
    runFuel fuel s = .outOfFuel t → t.status = .running ∧ Sys2Proof.core.run fuel s = .next t := by
  refine verdict_induction
    (P := fun fuel s verdict => verdict = .outOfFuel t → t.status = .running ∧ Sys2Proof.core.run fuel s = .next t)
    (fun _ _ _ => nofun) (fun s hs h => ?_) (fun n s u hu hrest h => ?_) fuel s
  · obtain rfl := Verdict.outOfFuel.inj h
    exact ⟨hs, rfl⟩
  · rw [core_run_succ hu]
    exact hrest h

/-- A run that has ended ends in the same state with more fuel (R88). -/
theorem runFuel_add_of_ended (fuel more : Nat) (s t : State) :
    runFuel fuel s = .ended t → runFuel (fuel + more) s = .ended t := by
  refine verdict_induction (P := fun fuel s verdict => verdict = .ended t → runFuel (fuel + more) s = .ended t)
    (fun n s hs h => (runFuel_of_over hs _).trans h) (fun _ _ => nofun) (fun n s u hu hrest h => ?_) fuel s
  rw [Nat.succ_add, runFuel_succ hu]
  exact hrest h

/-- Two amounts of fuel that both let a run end let it end in the same state. -/
theorem ended_unique {fuel more : Nat} {s t u : State} (ht : runFuel fuel s = .ended t)
    (hu : runFuel more s = .ended u) : t = u := by
  have ht' := runFuel_add_of_ended fuel more s t ht
  have hu' := runFuel_add_of_ended more fuel s u hu
  rw [Nat.add_comm] at hu'
  exact Verdict.ended.inj (ht'.symm.trans hu')

/-- A run from a RUNNING state that ends has a last step, from RUNNING to the state it ends in (R75). -/
theorem exists_last_step {fuel : Nat} {s t : State} (hs : s.status = .running) (h : runFuel fuel s = .ended t) :
    ∃ u, step u = .next t ∧ t.status ≠ .running := by
  refine verdict_induction
    (P := fun _ s verdict => s.status = .running → verdict = .ended t → ∃ u, step u = .next t ∧ t.status ≠ .running)
    (fun _ _ hover hs => absurd hs hover) (fun _ _ _ => nofun) (fun n s u hu hrest _ hended => ?_) fuel s hs h
  by_cases hrunning : u.status = .running
  · exact hrest hrunning hended
  · obtain rfl : u = t := Verdict.ended.inj ((runFuel_of_over hrunning n).symm.trans hended)
    exact ⟨s, hu, hrunning⟩

/-- A run that does not run out of fuel has ended (R88). -/
theorem ended_or_outOfFuel (fuel : Nat) (s : State) :
    (∃ t, runFuel fuel s = .ended t) ∨ ∃ t, runFuel fuel s = .outOfFuel t := by
  cases h : runFuel fuel s with
  | ended t => exact .inl ⟨t, rfl⟩
  | outOfFuel t => exact .inr ⟨t, rfl⟩
  | noStep t => exact absurd h (runFuel_ne_noStep fuel s t)

/-- A run that has ended at some fuel is not one that never ends. -/
theorem not_neverEnds_of_ended {fuel : Nat} {s t : State} (h : runFuel fuel s = .ended t) : ¬NeverEnds s := by
  intro hnever
  obtain ⟨u, hu⟩ := hnever fuel
  cases hu.symm.trans h

/-! ### The obligations -/

/-- Settles O40: the last step is a halt, which needs the absence of a whole pair, or the raise at an illegal pair; neither moves IP. -/
theorem runEndsAtAHaltOrAnIllegalPair : Obligations.RunEndsAtAHaltOrAnIllegalPair := by
  intro fuel s t hs h
  obtain ⟨u, hu, hover⟩ := exists_last_step hs h
  obtain ⟨v, hv, hcases⟩ := running_step_cases (step_next_cases hu).1
  obtain rfl : v = t := Host.Outcome.next.inj (hv.symm.trans hu)
  obtain ⟨hf, rfl⟩ | ⟨op, raw, hf, ⟨-, hrunning, -⟩ | ⟨hill, rfl⟩⟩ := hcases
  · exact .inl ⟨rfl, (fetchPair_eq_none_iff u).1 hf⟩
  · exact absurd hrunning hover
  · exact .inr ⟨rfl, op, raw, (fetchPair_raiseError _ u).trans hf, hill⟩

/-- Settles O41: by induction over the fuel, with a next state for every RUNNING state. -/
theorem fuelOnlyBoundsTheRun : Obligations.FuelOnlyBoundsTheRun :=
  ⟨runFuel_ne_noStep, running_of_outOfFuel, runFuel_add_of_ended⟩

/-- Settles O42: a run that does not exhaust every fuel ends at some, and the state it ends in does not depend on the fuel. -/
theorem runHaltsOrFailsOrNeverEnds : Obligations.RunHaltsOrFailsOrNeverEnds := by
  intro s hs
  refine ⟨?_, ?_, ?_, ?_⟩
  · by_cases hnever : NeverEnds s
    · exact .inr (.inr hnever)
    · obtain ⟨fuel, hfuel⟩ := not_forall.1 hnever
      obtain ⟨t, ht⟩ := (ended_or_outOfFuel fuel s).resolve_right hfuel
      obtain ⟨hhalted, -⟩ | ⟨herror, -⟩ := runEndsAtAHaltOrAnIllegalPair fuel s t hs ht
      · exact .inl ⟨fuel, t, ht, hhalted⟩
      · exact .inr (.inl ⟨fuel, t, ht, herror⟩)
  · rintro fuel more ⟨t, ht, hhalted⟩ ⟨u, hu, herror⟩
    obtain rfl := ended_unique ht hu
    cases hhalted.symm.trans herror
  · rintro fuel ⟨t, ht, -⟩
    exact not_neverEnds_of_ended ht
  · rintro fuel ⟨t, ht, -⟩
    exact not_neverEnds_of_ended ht

/-- Settles O48: the result is read off the status, which is HALTED or ERROR where the run ended and RUNNING while it goes on. -/
theorem resultOfARun : Obligations.ResultOfARun := by
  refine fun fuel s t hs => ⟨fun h => ?_, fun h => ?_⟩
  · obtain ⟨hhalted, -⟩ | ⟨herror, -⟩ := runEndsAtAHaltOrAnIllegalPair fuel s t hs h
    · exact .inl ⟨hhalted, by simp [result, hhalted]⟩
    · exact .inr ⟨herror, fun o => by simp [result, herror]⟩
  · simp [result, (running_of_outOfFuel fuel s t h).1]

/-- Settles O26: by induction over the fuel; each step appends the emitted digit, which is at most one. -/
theorem runOnlyAppendsOutput : Obligations.RunOnlyAppendsOutput := by
  refine verdict_induction (P := fun fuel s verdict => ∃ ds, verdict.state.out = s.out ++ ds ∧ ds.length ≤ fuel)
    (fun _ _ _ => ⟨[], by simp⟩) (fun _ _ => ⟨[], by simp⟩) ?_
  rintro n s t ht ⟨ds, hds, hlen⟩
  have hdigit : (emitted s).toList.length ≤ 1 := by cases emitted s <;> simp
  refine ⟨(emitted s).toList ++ ds, ?_, ?_⟩
  · rw [hds, step_next_out ht, List.append_assoc]
  · rw [List.length_append]
    omega

end Sys2Proof.Machine

/-! PROOFS. Reset, boot, the host's placing and the status port (70_reset_and_hazards.md): what the loader accepts, the pair that a
placed table word leaves at IP, and the obligations O45, O46, O39, O44 and O47. -/

namespace Sys2Proof.Machine

/-! ### The loader and boot -/

/-- A number is a word exactly when it is at most 7 (R55, R71). -/
theorem wordOfNat_eq_ok_iff (v : Nat) (w : Word) : wordOfNat v = .ok w ↔ v ≤ 7 ∧ w = BitVec.ofNat 3 v := by
  unfold wordOfNat
  by_cases h : v < 8
  · simp [h, Nat.le_of_lt_succ h, eq_comm]
  · simp [h, show ¬v ≤ 7 by omega]

/-- The words of a listing load exactly when every number is a word (R71, R139). -/
theorem loadWords_eq_ok_iff (listing : List Nat) (ws : List Word) :
    loadWords listing = .ok ws ↔ (∀ v ∈ listing, v ≤ 7) ∧ ws = listing.map (BitVec.ofNat 3) := by
  induction listing generalizing ws with
  | nil => simp [loadWords, eq_comm]
  | cons v vs ih =>
    constructor
    · intro h
      unfold loadWords at h
      split at h
      · cases h
      · cases h
      next hv hvs =>
        obtain ⟨hle, rfl⟩ := (wordOfNat_eq_ok_iff v _).1 hv
        obtain ⟨hall, rfl⟩ := (ih _).1 hvs
        exact ⟨List.forall_mem_cons.2 ⟨hle, hall⟩, (Except.ok.inj h).symm⟩
    · rintro ⟨hall, rfl⟩
      obtain ⟨hle, hrest⟩ := List.forall_mem_cons.1 hall
      simp [loadWords, (wordOfNat_eq_ok_iff v _).2 ⟨hle, rfl⟩, (ih _).2 ⟨hrest, rfl⟩]

/-- The loader accepts a listing of words of even length (R139, D7). -/
theorem loadProgram_eq_ok_iff (listing : List Nat) (ws : List Word) :
    loadProgram listing = .ok ws ↔
      (∀ v ∈ listing, v ≤ 7) ∧ listing.length % 2 = 0 ∧ ws = listing.map (BitVec.ofNat 3) := by
  unfold loadProgram
  cases h : loadWords listing with
  | error e =>
    have hnot : ¬∀ v ∈ listing, v ≤ 7 := fun hall => by
      cases h.symm.trans ((loadWords_eq_ok_iff listing _).2 ⟨hall, rfl⟩)
    simp [hnot]
  | ok us =>
    obtain ⟨hall, rfl⟩ := (loadWords_eq_ok_iff listing us).1 h
    by_cases heven : listing.length % 2 = 0
    · simpa [heven, eq_comm] using fun _ => hall
    · simp [heven]

/-- Boot of an admitted launch is RESET of its words and values (R139). -/
theorem boot_eq_ok {width : RegWidth} {listing : List Nat} {x y z : Nat} {ws : List Word}
    (hadm : width.admitted = true) (hload : loadProgram listing = .ok ws) (hx : width.holds x = true)
    (hy : width.holds y = true) (hz : width.holds z = true) :
    boot width listing x y z = .ok (State.resetWith ws x y z) := by
  simp [boot, hadm, hload, hx, hy, hz]

/-! ### The registers after RESET -/

/-- Every width holds 0 (R21). -/
theorem holds_zero (width : RegWidth) : width.holds 0 = true := by
  cases width with
  | unbounded => rfl
  | bits w => exact decide_eq_true (Nat.two_pow_pos w)

/-- After RESET the registers fit a width that the initial values fit (R136). -/
theorem regsFit_resetWith {width : RegWidth} (prog : List Word) {x y z : Nat} (hx : width.holds x = true)
    (hy : width.holds y = true) (hz : width.holds z = true) : RegsFit width (State.resetWith prog x y z)
  | .a => hx
  | .b => hy
  | .c => hz

/-! ### The host's placing -/

/-- The pair of a placed table word is fetched at the next step (log entry 4). -/
theorem fetchPair_withFetchWord (s : State) (op raw : Word) :
    fetchPair (s.withFetchWord 8 (instr6 op raw)) = some (op, raw) := by
  rw [State.withFetchWord, tableWords_instr6]
  refine (fetchPair_eq_some_iff _ op raw).2 ⟨?_, getElem?_placeWord_same _ _ _⟩
  exact getElem?_placeWord_other _ _ (by simp) (getElem?_placeWord_same _ _ _)

/-! ### The obligations -/

/-- Settles O45: an accepted launch passed every check of R139, and a launch that passes them is accepted; a width below 3 bits fails
the first. -/
theorem bootAcceptsExactlyAdmittedLaunches : Obligations.BootAcceptsExactlyAdmittedLaunches := by
  refine ⟨fun width listing x y z s => ⟨fun h => ?_, ?_⟩, fun w listing x y z hw => ?_⟩
  · obtain ⟨hadm, hx, hy, hz, ws, hload, rfl⟩ := boot_ok_cases h
    obtain ⟨hall, heven, rfl⟩ := (loadProgram_eq_ok_iff listing ws).1 hload
    exact ⟨hadm, hall, heven, hx, hy, hz, rfl⟩
  · rintro ⟨hadm, hall, heven, hx, hy, hz, rfl⟩
    exact boot_eq_ok hadm ((loadProgram_eq_ok_iff listing _).2 ⟨hall, heven, rfl⟩) hx hy hz
  · have hadm : (RegWidth.bits w).admitted = false := decide_eq_false (by omega)
    exact if_pos hadm

/-- Settles O46: the placed pair is fetched and decodes to the instruction, and placing it writes the two words alone. -/
theorem placedWordRunsNext : Obligations.PlacedWordRunsNext := by
  intro s i t
  have hplaced : t = { s with
      status := .running
      prog := placeWord (placeWord s.prog s.ip (opcodeOf i)) (s.ip + 1) (rawOf i) } := by
    simp only [t, State.withFetchWord, tableWords_instr6]
  have hrunning : t.status = .running := by rw [hplaced]
  have hstep : step t = exec i t := by
    rw [step_of_fetch_some hrunning (fetchPair_withFetchWord s _ _), decode_opcodeOf_rawOf]
  refine ⟨hstep, ?_⟩
  rw [hplaced]
  refine ⟨rfl, rfl, rfl, rfl, rfl, rfl, fun j w hop hraw hw => ?_⟩
  exact getElem?_placeWord_other _ _ hraw (getElem?_placeWord_other _ _ hop hw)

/-- Settles O39: IP starts at 0, each register starts at its initial value, and 0 fits every width. -/
theorem invariantsHoldAfterReset : Obligations.InvariantsHoldAfterReset :=
  ⟨fun _ _ _ _ => Nat.zero_le _, fun _ prog _ _ _ => regsFit_resetWith prog, Nat.zero_le _,
    fun width => regsFit_resetWith [] (holds_zero width) (holds_zero width) (holds_zero width)⟩

/-- Settles O44: fewer than two words leave no whole pair at index 0, so the first step is the halt. -/
theorem shortProgramHaltsAtTheFirstStep : Obligations.ShortProgramHaltsAtTheFirstStep :=
  ⟨fun prog x y z hshort => step_eq_halt (s := State.resetWith prog x y z) rfl (Nat.le_of_lt_succ hshort), rfl⟩

/-- Settles O47: each of the three statuses has its own code, and none of the three is 3. -/
theorem statusPortCodes : Obligations.StatusPortCodes := by
  have hback (st : Status) : statusOfCode (statusCode st) = some st := by
    cases st with
    | running => rfl
    | halted => rfl
    | error kind => cases kind; rfl
  refine ⟨rfl, rfl, rfl, rfl, hback, fun s h => ?_⟩
  have hnone : statusOfCode (statusCode s.status) = none := congrArg statusOfCode h
  cases (hback s.status).symm.trans hnone

end Sys2Proof.Machine
